-- ==== Sys2Proof/Word.lean ====
section
/-! DEFINITION. The word types of the block (00_scope.md R9) and nothing else: bytes, channel values and the packed
payload. -/

namespace Sys2Proof

/-- An unsigned 8-bit value (R9). -/
abbrev Byte := BitVec 8

/-- An unsigned 11-bit channel value, 0..2047 (R9, R56). -/
abbrev Chan := BitVec 11

/-- The packed payload P, 176 bits (R34, R53). -/
abbrev Payload := BitVec 176

end Sys2Proof
end

