-- ==== Sys2Proof/Config.lean ====
section
/-! DEFINITION. What an implementation fixes: the width of a timestamp (00_scope.md R6) with the types built on it, the
protocol constants (R5), and the model's free values. -/

namespace Sys2Proof

/-- W_TS, the width of a timestamp in bits: the spec's OPEN parameter (R6, D3, U8). No body: every statement about the
model holds for every width (log 1). -/
opaque Config.tsWidth : Nat

/-- The timestamp type TS, in the form `BitVec W_TS` that R6 offers (log 1). The block only copies timestamps. -/
abbrev TS := BitVec Config.tsWidth

/-- A pair of timestamps (R9); `stop` is the spec's `end`. -/
structure TimeInterval where
  start : TS
  stop  : TS
deriving DecidableEq, Repr, Inhabited

/-- One input byte with its two timestamps (R9, R51). -/
structure RawByte where
  byte  : Byte
  start : TS
  stop  : TS
deriving DecidableEq, Repr

end Sys2Proof

namespace Sys2Proof.Config

/-- HEADER_MARKER (R5). UNVERIFIED literal, as the spec says (D25, log 13). -/
@[simp] abbrev headerMarker : Byte := 0x0F#8

/-- FOOTER_MARKER (R5). UNVERIFIED literal, as the spec says (D25, log 13). -/
@[simp] abbrev footerMarker : Byte := 0x00#8

/-- NUM_CHANNELS (R5). -/
@[simp] abbrev numChannels : Nat := 16

/-- BITS_PER_CHANNEL (R5). -/
@[simp] abbrev bitsPerChannel : Nat := 11

/-- CHANNELS_BYTES (R5). -/
@[simp] abbrev channelsBytes : Nat := 22

/-- FRAME_BYTES, the spec's own name (R5). -/
@[simp] abbrev frameBytes : Nat := 25

/-- FREE VALUE (log 3): what `hdr` holds where the spec leaves it unspecified, after reset (R18, R28, R82, U2).
The argument is the number of the draw. No body: nothing about its values can be proved. -/
opaque freeInterval : Nat → TimeInterval

end Sys2Proof.Config
end

