-- ==== Sys2Proof/Syntax.lean ====
section
/-! DEFINITION. The syntax: the four FrameStates (10_state.md R14), the three formats (30_encoding.md R59) and the
operations, one constructor per row of opcode_table.json. -/

namespace Sys2Proof

/-- FrameState (R14), in the order the source lists the states. -/
inductive FrameState where
  | awaitingHeader
  | collectingChannels
  | awaitingExtras
  | awaitingFooter
deriving DecidableEq, Repr

/-- The three formats of the opcode table (R59). -/
inductive Format where
  | s   -- selection word, 11 bits
  | p   -- packed payload, 176 bits
  | c   -- control word, 2 bits
deriving DecidableEq, Repr

/-- The operations of the block (R61, R62, R85 to R103, R121). An S operation carries the byte of its selection
word where the row does not fix it; a P operation carries its payload. -/
inductive Instr where
  | hdrSync
  | hdrSkip (b : Byte)
  | collect (b : Byte)
  | collectLast (b : Byte)
  | extras (b : Byte)
  | ftrSync
  | ftrDrop (b : Byte)
  | unpack (p : Payload)
  | unpackCh0 (p : Payload)
  | unpackCh1 (p : Payload)
  | unpackCh2 (p : Payload)
  | unpackCh3 (p : Payload)
  | unpackCh4 (p : Payload)
  | unpackCh5 (p : Payload)
  | unpackCh6 (p : Payload)
  | unpackCh7 (p : Payload)
  | unpackCh8 (p : Payload)
  | unpackCh9 (p : Payload)
  | unpackCh10 (p : Payload)
  | unpackCh11 (p : Payload)
  | unpackCh12 (p : Payload)
  | unpackCh13 (p : Payload)
  | unpackCh14 (p : Payload)
  | unpackCh15 (p : Payload)
  | reset
  | idle
  | accept
deriving DecidableEq, Repr

end Sys2Proof
end

