-- ==== Sys2Proof/WellFormed.lean ====
section
/-! DEFINITION. Which operations are well formed: the `except` column of the opcode map (30_encoding.md R61). -/

namespace Sys2Proof

/-- HDR_SKIP never carries the header marker and FTR_DROP never the footer marker: those bytes are HDR_SYNC and
FTR_SYNC (R61). Nothing else is illegal (R63). -/
def Instr.wf : Instr → Bool
  | .hdrSkip b => b != Config.headerMarker
  | .ftrDrop b => b != Config.footerMarker
  | .hdrSync | .collect _ | .collectLast _ | .extras _ | .ftrSync => true
  | .unpack _ | .unpackCh0 _ | .unpackCh1 _ | .unpackCh2 _ | .unpackCh3 _ | .unpackCh4 _ | .unpackCh5 _
  | .unpackCh6 _ | .unpackCh7 _ | .unpackCh8 _ | .unpackCh9 _ | .unpackCh10 _ | .unpackCh11 _ | .unpackCh12 _
  | .unpackCh13 _ | .unpackCh14 _ | .unpackCh15 _ => true
  | .reset | .idle | .accept => true

end Sys2Proof
end

