-- ==== Sys2Proof/Decode.lean ====
section
/-! DEFINITION. Encodings (30_encoding.md): the byte-order helpers, the selection word (R60, R61), the control word
(R62), the payload word (R53), the decoder (R66), the encoder, and the opcode map as a table. -/

namespace Sys2Proof

/-! ### Byte order (20_memory.md R33): the first byte is the least significant -/

/-- The little-endian value of a byte sequence: the sum of `b[j] << 8j` (R34, R35). -/
def leNat : List Byte → Nat
  | [] => 0
  | b :: bs => b.toNat + 256 * leNat bs

/-- The `n` low bytes of `w`, least significant first. -/
def leBytes : Nat → Nat → List Byte
  | 0, _ => []
  | n + 1, w => BitVec.ofNat 8 w :: leBytes n (w / 256)

/-- The packed value P of 22 bytes (R34). -/
def payloadOf (bs : List Byte) : Payload := BitVec.ofNat 176 (leNat bs)

/-! ### Format S: the selection word -/

/-- The two-bit code of a FrameState (R14, R59). -/
def FrameState.code : FrameState → BitVec 2
  | .awaitingHeader => 0
  | .collectingChannels => 1
  | .awaitingExtras => 2
  | .awaitingFooter => 3

/-- The FrameState of a two-bit code; all four codes are legal (R14). -/
def FrameState.ofCode (c : BitVec 2) : FrameState :=
  if c = 0 then .awaitingHeader
  else if c = 1 then .collectingChannels
  else if c = 2 then .awaitingExtras
  else .awaitingFooter

/-- `sel = {st[1:0], last, byte[7:0]}` (R60). -/
def selWord (st : FrameState) (last : Bool) (b : Byte) : BitVec 11 :=
  st.code ++ BitVec.ofBool last ++ b

/-- Field `sel[10:9]`. -/
def selState (w : BitVec 11) : FrameState := .ofCode (w.extractLsb' 9 2)

/-- Field `sel[8]`. -/
def selLast (w : BitVec 11) : Bool := w.getLsbD 8

/-- Field `sel[7:0]`. -/
def selByte (w : BitVec 11) : Byte := w.extractLsb' 0 8

/-- The seven operations a selection word can name (R61). -/
inductive SelOp where
  | hdrSync
  | hdrSkip (b : Byte)
  | collect (b : Byte)
  | collectLast (b : Byte)
  | extras (b : Byte)
  | ftrSync
  | ftrDrop (b : Byte)
deriving DecidableEq, Repr

/-- The operation of the table a selected operation is. -/
def SelOp.toInstr : SelOp → Instr
  | .hdrSync => .hdrSync
  | .hdrSkip b => .hdrSkip b
  | .collect b => .collect b
  | .collectLast b => .collectLast b
  | .extras b => .extras b
  | .ftrSync => .ftrSync
  | .ftrDrop b => .ftrDrop b

/-- Step (4) of the decoding procedure R66: the exhaustive match on the FrameState. -/
def selectOp (st : FrameState) (last : Bool) (b : Byte) : SelOp :=
  match st with
  | .awaitingHeader => if b = Config.headerMarker then .hdrSync else .hdrSkip b
  | .collectingChannels => if last then .collectLast b else .collect b
  | .awaitingExtras => .extras b
  | .awaitingFooter => if b = Config.footerMarker then .ftrSync else .ftrDrop b

/-- The operation a selection word names (R61, R66); every one of the 2048 words names one. -/
def decodeSel (w : BitVec 11) : SelOp := selectOp (selState w) (selLast w) (selByte w)

/-! ### Format C: the control word -/

/-- The three port-level operations (R62). -/
inductive ControlOp where
  | reset
  | idle
  | accept
deriving DecidableEq, Repr

/-- The operation of the table a control operation is. -/
def ControlOp.toInstr : ControlOp → Instr
  | .reset => .reset
  | .idle => .idle
  | .accept => .accept

/-- The control word `{rst, in_valid}` (R62). -/
def controlWord (rst inValid : Bool) : BitVec 2 := BitVec.ofBool rst ++ BitVec.ofBool inValid

/-- `1x` RESET, `00` IDLE, `01` ACCEPT (R62): rst has priority over in_valid (R84, R114). -/
def decodeControl (w : BitVec 2) : ControlOp :=
  if w.getLsbD 1 then .reset else if w.getLsbD 0 then .accept else .idle

/-! ### Codes, decoder, encoder -/

/-- A row of format P: UNPACK itself, or the extraction of one channel (R59). -/
inductive PayloadRow where
  | whole
  | ch0 | ch1 | ch2 | ch3 | ch4 | ch5 | ch6 | ch7
  | ch8 | ch9 | ch10 | ch11 | ch12 | ch13 | ch14 | ch15
deriving DecidableEq, Repr

/-- An instruction word in one of the three formats (R59). DESIGN CHOICE (log 9): the seventeen rows of format P
have no fixed bits, so which row is meant stands beside the 176 bits. -/
inductive Code where
  | sel (w : BitVec 11)
  | payload (row : PayloadRow) (p : Payload)
  | control (w : BitVec 2)
deriving DecidableEq, Repr

/-- The instruction of a format P row. -/
def payloadInstr (row : PayloadRow) (p : Payload) : Instr :=
  match row with
  | .whole => .unpack p
  | .ch0 => .unpackCh0 p
  | .ch1 => .unpackCh1 p
  | .ch2 => .unpackCh2 p
  | .ch3 => .unpackCh3 p
  | .ch4 => .unpackCh4 p
  | .ch5 => .unpackCh5 p
  | .ch6 => .unpackCh6 p
  | .ch7 => .unpackCh7 p
  | .ch8 => .unpackCh8 p
  | .ch9 => .unpackCh9 p
  | .ch10 => .unpackCh10 p
  | .ch11 => .unpackCh11 p
  | .ch12 => .unpackCh12 p
  | .ch13 => .unpackCh13 p
  | .ch14 => .unpackCh14 p
  | .ch15 => .unpackCh15 p

/-- The decoder on codes: total, because no word of the three formats is reserved or illegal (R61, R63). -/
def decode : Code → Instr
  | .sel w => (decodeSel w).toInstr
  | .payload row p => payloadInstr row p
  | .control w => (decodeControl w).toInstr

/-- The encoder, from the opcode map (R61, R62) and the payload format (R53). Bits a row does not test are 0. -/
def encode : Instr → Code
  | .hdrSync => .sel 0b00_0_00001111#11
  | .hdrSkip b => .sel (0b00_0#3 ++ b)
  | .collect b => .sel (0b01_0#3 ++ b)
  | .collectLast b => .sel (0b01_1#3 ++ b)
  | .extras b => .sel (0b10_0#3 ++ b)
  | .ftrSync => .sel 0b11_0_00000000#11
  | .ftrDrop b => .sel (0b11_0#3 ++ b)
  | .unpack p => .payload .whole p
  | .unpackCh0 p => .payload .ch0 p
  | .unpackCh1 p => .payload .ch1 p
  | .unpackCh2 p => .payload .ch2 p
  | .unpackCh3 p => .payload .ch3 p
  | .unpackCh4 p => .payload .ch4 p
  | .unpackCh5 p => .payload .ch5 p
  | .unpackCh6 p => .payload .ch6 p
  | .unpackCh7 p => .payload .ch7 p
  | .unpackCh8 p => .payload .ch8 p
  | .unpackCh9 p => .payload .ch9 p
  | .unpackCh10 p => .payload .ch10 p
  | .unpackCh11 p => .payload .ch11 p
  | .unpackCh12 p => .payload .ch12 p
  | .unpackCh13 p => .payload .ch13 p
  | .unpackCh14 p => .payload .ch14 p
  | .unpackCh15 p => .payload .ch15 p
  | .reset => .control 0b10#2
  | .idle => .control 0b00#2
  | .accept => .control 0b01#2

/-! ### Words laid out in bytes -/

/-- Why bytes are no instruction word. -/
inductive DecodeError where
  /-- No format is this many bytes long (R59: 11, 176 and 2 bits). Safe. -/
  | noFormat (bytes : Nat)
  /-- A bit above the format's width is set. Safe. -/
  | beyondWidth (format : Format)
deriving DecidableEq, Repr

/-- The format of a word laid out in whole bytes (R59). DESIGN CHOICE (log 11): 1 byte is C, 2 are S, 22 are P. -/
def formatOfBytes (bytes : Nat) : Option Format :=
  if bytes = 1 then some .c else if bytes = 2 then some .s else if bytes = 22 then some .p else none

/-- The code in a byte sequence, least significant byte first (R33); total on any bytes, rejecting by name.
A payload read from bits alone is UNPACK's, the first row of format P (log 9). -/
def codeOfBytes (bs : List Byte) : Except DecodeError Code :=
  match formatOfBytes bs.length with
  | none => .error (.noFormat bs.length)
  | some .c => if leNat bs < 4 then .ok (.control (BitVec.ofNat 2 (leNat bs))) else .error (.beyondWidth .c)
  | some .s => if leNat bs < 2048 then .ok (.sel (BitVec.ofNat 11 (leNat bs))) else .error (.beyondWidth .s)
  | some .p => .ok (.payload .whole (payloadOf bs))

/-- The decoder on bytes. -/
def decodeBytes (bs : List Byte) : Except DecodeError Instr := (codeOfBytes bs).map decode

/-- A code laid out in whole bytes, least significant first. -/
def codeBytes : Code → List Byte
  | .sel w => leBytes 2 w.toNat
  | .payload _ p => leBytes 22 p.toNat
  | .control w => leBytes 1 w.toNat

/-- The host's question: the instruction the decoder reads from the bits `w` of a row `nbits` wide, in whole bytes. -/
def decodeTableWord (nbits w : Nat) : Option Instr :=
  let bytes := (nbits + 7) / 8
  if w < 256 ^ bytes then (decodeBytes (leBytes bytes w)).toOption else none

/-! ### The opcode map as a table (R61, R62) -/

/-- One row: it applies to a word `w` when `w & mask = pattern`, except for one byte value. -/
structure Row where
  mnemonic : String
  format   : Format
  pattern  : Nat
  mask     : Nat
  except   : Option Byte
deriving DecidableEq, Repr

/-- The row of each operation, as opcode_table.json gives it (R61, R62, R59). -/
def Instr.row : Instr → Row
  | .hdrSync => ⟨"HDR_SYNC", .s, 0x00F, 0x6FF, none⟩
  | .hdrSkip _ => ⟨"HDR_SKIP", .s, 0x000, 0x600, some 0x0F⟩
  | .collect _ => ⟨"COLLECT", .s, 0x200, 0x700, none⟩
  | .collectLast _ => ⟨"COLLECT_LAST", .s, 0x300, 0x700, none⟩
  | .extras _ => ⟨"EXTRAS", .s, 0x400, 0x600, none⟩
  | .ftrSync => ⟨"FTR_SYNC", .s, 0x600, 0x6FF, none⟩
  | .ftrDrop _ => ⟨"FTR_DROP", .s, 0x600, 0x600, some 0x00⟩
  | .unpack _ => ⟨"UNPACK", .p, 0, 0, none⟩
  | .unpackCh0 _ => ⟨"UNPACK.CH0", .p, 0, 0, none⟩
  | .unpackCh1 _ => ⟨"UNPACK.CH1", .p, 0, 0, none⟩
  | .unpackCh2 _ => ⟨"UNPACK.CH2", .p, 0, 0, none⟩
  | .unpackCh3 _ => ⟨"UNPACK.CH3", .p, 0, 0, none⟩
  | .unpackCh4 _ => ⟨"UNPACK.CH4", .p, 0, 0, none⟩
  | .unpackCh5 _ => ⟨"UNPACK.CH5", .p, 0, 0, none⟩
  | .unpackCh6 _ => ⟨"UNPACK.CH6", .p, 0, 0, none⟩
  | .unpackCh7 _ => ⟨"UNPACK.CH7", .p, 0, 0, none⟩
  | .unpackCh8 _ => ⟨"UNPACK.CH8", .p, 0, 0, none⟩
  | .unpackCh9 _ => ⟨"UNPACK.CH9", .p, 0, 0, none⟩
  | .unpackCh10 _ => ⟨"UNPACK.CH10", .p, 0, 0, none⟩
  | .unpackCh11 _ => ⟨"UNPACK.CH11", .p, 0, 0, none⟩
  | .unpackCh12 _ => ⟨"UNPACK.CH12", .p, 0, 0, none⟩
  | .unpackCh13 _ => ⟨"UNPACK.CH13", .p, 0, 0, none⟩
  | .unpackCh14 _ => ⟨"UNPACK.CH14", .p, 0, 0, none⟩
  | .unpackCh15 _ => ⟨"UNPACK.CH15", .p, 0, 0, none⟩
  | .reset => ⟨"RESET", .c, 0x2, 0x2, none⟩
  | .idle => ⟨"IDLE", .c, 0x0, 0x3, none⟩
  | .accept => ⟨"ACCEPT", .c, 0x1, 0x3, none⟩

/-- A row applies to a word (R61). -/
def Row.applies (r : Row) (w : Nat) : Bool :=
  w &&& r.mask == r.pattern && r.except != some (BitVec.ofNat 8 w)

/-- The seven rows of format S, in the order of R61. -/
def selRows : List Row :=
  [Instr.hdrSync.row, (Instr.hdrSkip 0).row, (Instr.collect 0).row, (Instr.collectLast 0).row,
   (Instr.extras 0).row, Instr.ftrSync.row, (Instr.ftrDrop 1).row]

/-- The three rows of format C (R62). -/
def controlRows : List Row := [Instr.reset.row, Instr.idle.row, Instr.accept.row]

/-- The format of a code (R59). -/
def Code.format : Code → Format
  | .sel _ => .s
  | .payload _ _ => .p
  | .control _ => .c

/-- The bits of a code as one number. -/
def Code.bits : Code → Nat
  | .sel w => w.toNat
  | .payload _ p => p.toNat
  | .control w => w.toNat

end Sys2Proof
end

