-- ==== Sys2Proof/Machine/State.lean ====
section
/-! DEFINITION. The state of the block (10_state.md R13), its ports as data (40_frame_decoder.md R84), the reasons a
step can stop, and the state after reset (R28, R126). -/

namespace Sys2Proof.Machine

/-- The three output events (30_encoding.md R55 to R58). -/
inductive Event where
  | header (start stop : TS)
  | channel (start stop : TS) (ch : List Chan)
  | footer (start stop : TS)
deriving DecidableEq, Repr

/-- What the host presents at one clock edge: the input ports of R84. -/
structure PortCycle where
  rst     : Bool
  inValid : Bool
  byte    : Byte
  start   : TS
  stop    : TS
deriving DecidableEq, Repr

/-- What the latest operation put out: the event list it returned (R10, R58) and the channel values the BitUnpacker
drove, by channel number (R85, R105). DESIGN CHOICE (log 4): output held as data for one step, no register (R26, R27). -/
structure Output where
  events : List Event
  lanes  : List (Nat × Chan)
deriving DecidableEq, Repr

/-- No event and no channel value. -/
@[simp] def Output.silent : Output := ⟨[], []⟩

/-- Why the model stops with a fault. The block itself has none (R11, R109). -/
inductive Fault where
  /-- An access to a ChannelBuffer index outside 0..21 (R31). Raised by the buffer's reads and its append. Safe. -/
  | noSuchIndex (i : Nat)
  /-- A read of a ChannelBuffer byte that is not held: at or above `cnt`, or never written since reset
  (R8 "defined only for i < cnt", R17, U4). Raised by the buffer's reads, hence by FTR_SYNC and ACCEPT in states
  that break INV5 (R23). Safe. -/
  | unheldByte (i : Nat)
deriving DecidableEq, Repr

/-- Why the model gives an operation no meaning. -/
inductive Refusal where
  /-- An arm of exec that has no meaning yet. Safe. -/
  | notModelled (mnemonic : String)
  /-- The combination of `st` and `cnt` is one no rule reaches (R24, U3). Raised by every operation on an accepted
  byte. Safe. -/
  | unreachableState
  /-- The operation is not the one the state and the presented port cycle select (R61, R62, R66), so it does not
  happen at this edge. Raised by every operation of formats S and C handed to exec out of place; never by step. Safe. -/
  | notSelected
deriving DecidableEq, Repr

/-- The ChannelBuffer's contents: index and byte, indices strictly rising (R16, R31; log 6). An index that is not
listed holds no readable value. -/
abbrev Memory := List Host.Cell

/-- The whole state. The first four fields are the spec's state (R13); `input` and `out` are the ports of R84 as data
(log 2, log 4); `draws` is the model's own counter of free values (log 5). -/
structure State where
  st    : FrameState
  cnt   : BitVec 5
  buf   : Memory
  hdr   : TimeInterval
  input : List PortCycle
  out   : Output
  draws : Nat
deriving DecidableEq, Repr

/-- The state after reset (R28, R126): AwaitingHeader, an empty buffer, no event, nothing presented. `hdr` is
unspecified there: DESIGN CHOICE (log 3), the free value of draw 0. -/
def State.reset : State where
  st    := .awaitingHeader
  cnt   := 0
  buf   := []
  hdr   := Config.freeInterval 0
  input := []
  out   := .silent
  draws := 1

end Sys2Proof.Machine
end

