-- ==== Sys2Proof/Machine/Flags.lean ====
section
/-! DEFINITION. The three conditions the block tests (10_state.md R25) and the derived predicates over `st` and `cnt`:
`last` (R60), `pos` (R19), legality of the combination (R23, R24). None of them is held as state. -/

namespace Sys2Proof.Machine

/-- `last`: this append fills the buffer (R60, D15). -/
def State.last (s : State) : Bool := s.cnt == 21

/-- INV1 to INV3 and INV6 of R23: the 25 combinations of `st` and `cnt` the rules reach. -/
def State.legal (s : State) : Bool :=
  match s.st with
  | .awaitingHeader => s.cnt == 0
  | .collectingChannels => s.cnt.toNat < Config.channelsBytes
  | .awaitingExtras => s.cnt == 22
  | .awaitingFooter => s.cnt == 22

/-- The protocol position of R19; meaningful in legal states. -/
def State.pos (s : State) : Nat :=
  match s.st with
  | .awaitingHeader => 0
  | .collectingChannels => 1 + s.cnt.toNat
  | .awaitingExtras => 23
  | .awaitingFooter => 24

/-- The header test (R52). -/
def isHeader (b : Byte) : Bool := b == Config.headerMarker

/-- The footer test (R52). -/
def isFooter (b : Byte) : Bool := b == Config.footerMarker

/-- The number of an event's kind (R58, D8); 3 is never produced. -/
def Event.kind : Event → BitVec 2
  | .header _ _ => 0
  | .channel _ _ _ => 1
  | .footer _ _ => 2

/-- A channel value seen in a 16-bit container (R56, D9). -/
def chanWord (c : Chan) : BitVec 16 := c.setWidth 16

end Sys2Proof.Machine
end

