-- ==== Sys2Proof/Machine/Operands.lean ====
section
/-! DEFINITION. Where operands come from: the presented port cycle (40_frame_decoder.md R84), the selection and control
words (30_encoding.md R60, R62), bytes of the ChannelBuffer (20_memory.md R31, R35, R38), and the channel fields of a
payload (R34 to R37, 41_bit_unpacker.md R86, R87). -/

namespace Sys2Proof.Machine

/-! ### The input port -/

/-- A cycle in which the host presents nothing: `in_valid` = 0, so its byte and timestamps are never used (R81). -/
def PortCycle.quiet : PortCycle := ⟨false, false, 0, 0, 0⟩

/-- The cycle that presents one RawByte (R84: `rst` = 0, `in_valid` = 1). -/
def PortCycle.ofByte (x : RawByte) : PortCycle := ⟨false, true, x.byte, x.start, x.stop⟩

/-- The RawByte a cycle presents. -/
def PortCycle.raw (c : PortCycle) : RawByte := ⟨c.byte, c.start, c.stop⟩

/-- The port cycle of this clock edge; when the host has no more to present, nothing is presented (R130). -/
def State.port (s : State) : PortCycle := s.input.headD PortCycle.quiet

/-- The control word of this edge (R62). -/
def State.control (s : State) : BitVec 2 := controlWord s.port.rst s.port.inValid

/-- The selection word of this edge (R60). -/
def State.sel (s : State) : BitVec 11 := selWord s.st s.last s.port.byte

/-- A RawByte is presented for acceptance: `rst` = 0 and `in_valid` = 1 (R84). -/
def State.presents (s : State) : Bool := !s.port.rst && s.port.inValid

/-- The interval of the presented byte. -/
def State.interval (s : State) : TimeInterval := ⟨s.port.start, s.port.stop⟩

/-! ### The ChannelBuffer -/

/-- The byte listed at an index. -/
def Memory.read : Memory → Nat → Option Byte
  | [], _ => none
  | (a, b) :: m, i => if a = i then some b else Memory.read m i

/-- Write one byte, keeping the indices strictly rising. -/
def Memory.write : Memory → Nat → Byte → Memory
  | [], i, v => [(i, v)]
  | (a, b) :: m, i, v =>
    if i < a then (i, v) :: (a, b) :: m
    else if i = a then (i, v) :: m
    else (a, b) :: Memory.write m i v

/-- Indices strictly rising from at least `lo`, all inside 0..21. -/
def Memory.risingFrom : Nat → Memory → Bool
  | _, [] => true
  | lo, (a, _) :: m => decide (lo ≤ a) && decide (a < Config.channelsBytes) && Memory.risingFrom (a + 1) m

/-- The canonical form of the ChannelBuffer's contents (R31; log 6). -/
def Memory.wf (m : Memory) : Bool := Memory.risingFrom 0 m

/-- `buf[i]` (R8): readable only below `cnt`. -/
def State.readByte (s : State) (i : Nat) : Except Fault Byte :=
  if Config.channelsBytes ≤ i then .error (.noSuchIndex i)
  else if s.cnt.toNat ≤ i then .error (.unheldByte i)
  else
    match s.buf.read i with
    | some b => .ok b
    | none => .error (.unheldByte i)

/-- `n` consecutive ChannelBuffer bytes from index `i`. -/
def State.readBytes (s : State) : Nat → Nat → Except Fault (List Byte)
  | _, 0 => .ok []
  | i, n + 1 =>
    match s.readByte i with
    | .error f => .error f
    | .ok b =>
      match s.readBytes (i + 1) n with
      | .error f => .error f
      | .ok bs => .ok (b :: bs)

/-- `MemRead(i, n)` (R35): the little-endian value of `n` consecutive bytes. -/
def State.memRead (s : State) (i n : Nat) : Except Fault Nat := (s.readBytes i n).map leNat

/-- P, the packed value of the complete buffer (R34). -/
def State.payload (s : State) : Except Fault Payload :=
  (s.readBytes 0 Config.channelsBytes).map payloadOf

/-! ### Fields of a payload -/

/-- Byte `j` of a payload: `P[8j+7 : 8j]` (R34). -/
def payloadByte (p : Payload) (j : Nat) : Byte := p.extractLsb' (8 * j) 8

/-- The 22 bytes of a payload, `buf[0]` first (R34). -/
def payloadBytes (p : Payload) : List Byte := (List.range Config.channelsBytes).map (payloadByte p)

/-- `MemRead(i, n)` over the bytes of a payload (R35). -/
def payloadRead (p : Payload) (i n : Nat) : Nat := leNat ((List.range n).map fun j => payloadByte p (i + j))

/-- Channel k, slice form: `P[11k+10 : 11k]` (R86). -/
def channel (p : Payload) (k : Nat) : Chan := p.extractLsb' (Config.bitsPerChannel * k) Config.bitsPerChannel

/-- A channel field, byte-wise form: `(MemRead(b, n) >> o) & 0x7FF` (R54, R87). -/
def channelField (p : Payload) (b n o : Nat) : Chan := BitVec.ofNat 11 ((payloadRead p b n >>> o) &&& 0x7FF)

/-- UNPACK's sixteen values, channel 0 first (R85, R105). -/
def unpackAll (p : Payload) : List Chan := (List.range Config.numChannels).map (channel p)

/-- The sixteen lanes UNPACK drives (R105). -/
def allLanes (p : Payload) : List (Nat × Chan) :=
  (List.range Config.numChannels).map fun k => (k, channel p k)

/-- The sum of `c[k] << 11k` (R107). -/
def leChan : List Chan → Nat
  | [] => 0
  | c :: cs => c.toNat + 2048 * leChan cs

/-- `pack` (R107), the inverse of UNPACK, as a payload. It is not part of the block; the round-trip property and
the FRAME notation (R65) need it. -/
def pack (cs : List Chan) : Payload := BitVec.ofNat 176 (leChan cs)

end Sys2Proof.Machine
end

