-- ==== Sys2Proof/Machine/Fetch.lean ====
section
/-! DEFINITION. Which operation the next clock edge performs (30_encoding.md R66), and how the host's check places an
instruction word where that edge takes it. -/

namespace Sys2Proof.Machine

/-- The decoding procedure of R66: rst, then in_valid, then the selection word. -/
def State.fetch (s : State) : Instr :=
  match decodeControl s.control with
  | .reset => .reset
  | .idle => .idle
  | .accept => (decodeSel s.sel).toInstr

/-- List zero at every unlisted index below `n`, so that `n` bytes are held. -/
def Memory.fill (m : Memory) : Nat → Memory
  | 0 => m
  | n + 1 =>
    match m.read n with
    | some _ => Memory.fill m n
    | none => Memory.fill (m.write n 0) n

/-- A canonical count for a FrameState and `last` (R19). -/
def seatCount (st : FrameState) (last : Bool) : BitVec 5 :=
  match st with
  | .awaitingHeader => 0
  | .collectingChannels => if last then 21 else 0
  | .awaitingExtras => 22
  | .awaitingFooter => 22

/-- Bring the block to a legal state with the given FrameState and `last`, unchanged if it is in one already. -/
def State.seat (s : State) (st : FrameState) (last : Bool) : State :=
  let cnt :=
    if s.legal && s.st == st && (s.last == last || st != .collectingChannels) then s.cnt else seatCount st last
  { s with st := st, cnt := cnt, buf := s.buf.fill cnt.toNat }

/-- List the bytes of a payload at indices `i`, `i + 1`, ... -/
def listBytes : Nat → List Byte → Memory
  | _, [] => []
  | i, b :: bs => (i, b) :: listBytes (i + 1) bs

/-- Present one more port cycle, before all others. -/
def State.present (s : State) (c : PortCycle) : State := { s with input := c :: s.input }

/-- Place a code so that the next edge runs it (log 10): a control word is presented; a selection word's FrameState
and `last` become the block's and its byte is presented; a payload becomes the complete buffer of a block that is
presented a footer byte, which is the one place the block runs its UNPACK. -/
def State.place (s : State) : Code → State
  | .control w => s.present ⟨w.getLsbD 1, w.getLsbD 0, 0, 0, 0⟩
  | .sel w => (s.seat (selState w) (selLast w)).present ⟨false, true, selByte w, 0, 0⟩
  | .payload _ p =>
    State.present { s with st := .awaitingFooter, cnt := 22, buf := listBytes 0 (payloadBytes p) }
      ⟨false, true, Config.footerMarker, 0, 0⟩

/-- Place the word the host asks about; a word that is no instruction places nothing. -/
def State.placeWord (s : State) (nbits w : Nat) : State :=
  match codeOfBytes (leBytes ((nbits + 7) / 8) w) with
  | .ok c => s.place c
  | .error _ => s

end Sys2Proof.Machine
end

