-- ==== Sys2Proof/Machine/Ops.lean ====
section
/-! DEFINITION. The named operations the meanings are written over: which operation is selected, the end of a clock
edge, the buffer's append (20_memory.md R38), resynchronisation (60_exceptions.md R115, the block's one analogue of an
exception entry; it has no return operation, R116), the triple (40_frame_decoder.md R79) and reset (R82). -/

namespace Sys2Proof.Machine

/-- What exec and step answer. -/
abbrev Answer := Host.Outcome State Fault Refusal

/-- Go on with a value, or stop with its fault. -/
def orFault {α : Type} (r : Except Fault α) (k : α → Answer) : Answer :=
  match r with
  | .ok a => k a
  | .error f => .fault f

/-- An operation happens at this edge only if the state and the presented cycle select it (R61, R62, R66). -/
def State.whenSelected (s : State) (i : Instr) (answer : Answer) : Answer :=
  if s.fetch = i then answer else .refused .notSelected

/-- An operation on an accepted byte: selected, and in one of the 25 combinations the rules reach (R24). -/
def State.onByte (s : State) (i : Instr) (answer : Answer) : Answer :=
  s.whenSelected i (if s.legal then answer else .refused .unreachableState)

/-- The end of a clock edge: the port cycle is consumed (R41) and the output is this operation's (R136). -/
def State.finish (s : State) (o : Output) : State := { s with input := s.input.tail, out := o }

/-- `MemWrite(cnt, 1, b); cnt <- cnt + 1` (R38). -/
def State.append (s : State) (b : Byte) : Except Fault State :=
  if s.cnt.toNat < Config.channelsBytes then
    .ok { s with buf := s.buf.write s.cnt.toNat b, cnt := s.cnt + 1 }
  else .error (.noSuchIndex s.cnt.toNat)

/-- `hdr <- (ts, te)` of the presented byte (R69). -/
def State.recordHeader (s : State) : State := { s with hdr := s.interval }

/-- `st <- S` (R8). -/
def State.goTo (s : State) (st : FrameState) : State := { s with st := st }

/-- Resynchronisation entry (R115): to AwaitingHeader with an empty buffer; nothing is saved. FTR_SYNC ends a good
cycle the same way (R76, R83 (e)). The 22 bytes stay in `buf`, stale and unreadable (R17, R47). -/
def State.resync (s : State) : State := { s with st := .awaitingHeader, cnt := 0 }

/-- The three events of a cycle (R76, R79, R80): every timestamp is copied. -/
def triple (hdr ftr : TimeInterval) (p : Payload) : List Event :=
  [.header hdr.start hdr.stop, .channel hdr.stop ftr.start (unpackAll p), .footer ftr.start ftr.stop]

/-- The state after RESET (R28, R82): `buf` holds nothing readable and `hdr` is unspecified, a FREE VALUE (log 3). -/
def State.afterReset (s : State) : State :=
  { s with
    st := .awaitingHeader, cnt := 0, buf := [], hdr := Config.freeInterval s.draws, draws := s.draws + 1 }

/-- Drive BitUnpacker lanes and nothing else: UNPACK is combinational and takes no port cycle (R85; log 10). -/
def State.drive (s : State) (lanes : List (Nat × Chan)) : State := { s with out := ⟨[], lanes⟩ }

end Sys2Proof.Machine
end

