-- ==== Sys2Proof/Machine/Decoder.lean ====
section
/-! DEFINITION. The seven operations on an accepted byte (40_frame_decoder.md R68 to R77). -/

namespace Sys2Proof.Machine

/-- HDR_SYNC (R69): record the header interval, go to CollectingChannels, no event. -/
def execHdrSync (s : State) : Answer :=
  s.onByte .hdrSync (.next ((s.recordHeader.goTo .collectingChannels).finish .silent))

/-- HDR_SKIP (R68, AN1 of R110): nothing changes, no event. -/
def execHdrSkip (b : Byte) (s : State) : Answer :=
  s.onByte (.hdrSkip b) (.next (s.finish .silent))

/-- COLLECT (R70): store the byte, stay in CollectingChannels, no event. -/
def execCollect (b : Byte) (s : State) : Answer :=
  s.onByte (.collect b) (orFault (s.append b) fun t => .next (t.finish .silent))

/-- COLLECT_LAST (R71): store the 22nd byte, go to AwaitingExtras, no event. -/
def execCollectLast (b : Byte) (s : State) : Answer :=
  s.onByte (.collectLast b) (orFault (s.append b) fun t => .next ((t.goTo .awaitingExtras).finish .silent))

/-- EXTRAS (R75): go to AwaitingFooter. The source's extension point: the byte is consumed and not interpreted (R64). -/
def execExtras (b : Byte) (s : State) : Answer :=
  s.onByte (.extras b) (.next ((s.goTo .awaitingFooter).finish .silent))

/-- FTR_SYNC (R76): read the buffer, emit the triple, then resynchronise (R40). -/
def execFtrSync (s : State) : Answer :=
  s.onByte .ftrSync
    (orFault s.payload fun p => .next (s.resync.finish ⟨triple s.hdr s.interval p, allLanes p⟩))

/-- FTR_DROP (R77, AN2 of R110): drop the cycle; the byte is not examined again (R78). -/
def execFtrDrop (b : Byte) (s : State) : Answer :=
  s.onByte (.ftrDrop b) (.next (s.resync.finish .silent))

end Sys2Proof.Machine
end

