-- ==== Sys2Proof/Machine/Port.lean ====
section
/-! DEFINITION. The port-level operations RESET, IDLE and ACCEPT (40_frame_decoder.md R81, R82, R67) and the output
ports (R84). -/

namespace Sys2Proof.Machine

/-- RESET (R82, R125): from any state to the state after reset; a byte presented in the same cycle is discarded. -/
def execReset (s : State) : Answer :=
  s.whenSelected .reset (.next (s.afterReset.finish .silent))

/-- IDLE (R81): nothing changes, no event. -/
def execIdle (s : State) : Answer :=
  s.whenSelected .idle (.next (s.finish .silent))

/-- ACCEPT (R67, R62): perform the one operation the selection word names. -/
def execAccept (s : State) : Answer :=
  if s.presents then
    match decodeSel s.sel with
    | .hdrSync => execHdrSync s
    | .hdrSkip b => execHdrSkip b s
    | .collect b => execCollect b s
    | .collectLast b => execCollectLast b s
    | .extras b => execExtras b s
    | .ftrSync => execFtrSync s
    | .ftrDrop b => execFtrDrop b s
  else .refused .notSelected

/-- The parallel record of the three events on the output ports (R84). -/
structure OutRecord where
  hdrStart : TS
  hdrStop  : TS
  chStart  : TS
  chStop   : TS
  ch       : List Chan
  ftrStart : TS
  ftrStop  : TS
deriving DecidableEq, Repr

/-- The output ports in one cycle: `out_valid` and the record. While `out_valid` is 0 the other outputs are
unspecified and must not be used (R84, D10, U6): they have no value here (log 12). -/
structure OutPort where
  valid  : Bool
  record : Option OutRecord
deriving DecidableEq, Repr

/-- The record of R84, from the state and the inputs of the cycle. -/
def outRecord (hdr ftr : TimeInterval) (p : Payload) : OutRecord :=
  ⟨hdr.start, hdr.stop, hdr.stop, ftr.start, unpackAll p, ftr.start, ftr.stop⟩

/-- The outputs are combinational functions of the state and the current inputs (R84, a Mealy machine):
`out_valid` is 1 exactly in a cycle that performs FTR_SYNC. DESIGN CHOICE (log 19), where the spec gives the outputs no
meaning (R24, D14, U4): for a byte presented in an unreachable combination of `st` and `cnt` `out_valid` is 0, and where
FTR_SYNC is selected in a reachable one but a buffer byte is not held, so that the step faults, `out_valid` is 1 with no
record. -/
def State.outPort (s : State) : OutPort :=
  if s.fetch = .ftrSync && s.legal then
    match s.payload with
    | .ok p => ⟨true, some (outRecord s.hdr s.interval p)⟩
    | .error _ => ⟨true, none⟩
  else ⟨false, none⟩

/-- A consumer that serialises the record delivers header, then channel, then footer (R84). -/
def OutRecord.serialise (r : OutRecord) : List Event :=
  [.header r.hdrStart r.hdrStop, .channel r.chStart r.chStop r.ch, .footer r.ftrStart r.ftrStop]

end Sys2Proof.Machine
end

