-- ==== Sys2Proof/Machine/Unpack.lean ====
section
/-! DEFINITION. The BitUnpacker (41_bit_unpacker.md): UNPACK and its sixteen channel extractions. Pure and total on
every payload; the result goes to the output lanes and nothing else changes (R85). In the block UNPACK runs inside
FTR_SYNC only, on the 22 buffered bytes (R76). -/

namespace Sys2Proof.Machine

/-- UNPACK (R85): for k in 0..15, `ch[k] = P[11k+10 : 11k]`. -/
def execUnpack (p : Payload) (s : State) : Answer :=
  .next (s.drive (allLanes p))

/-- UNPACK.CH0 (R88): ChannelBuffer indices 0 and 1. -/
def execUnpackCh0 (p : Payload) (s : State) : Answer :=
  .next (s.drive [(0, channelField p 0 2 0)])

/-- UNPACK.CH1 (R89): ChannelBuffer indices 1 and 2. -/
def execUnpackCh1 (p : Payload) (s : State) : Answer :=
  .next (s.drive [(1, channelField p 1 2 3)])

/-- UNPACK.CH2 (R90): ChannelBuffer indices 2, 3 and 4. -/
def execUnpackCh2 (p : Payload) (s : State) : Answer :=
  .next (s.drive [(2, channelField p 2 3 6)])

/-- UNPACK.CH3 (R91): ChannelBuffer indices 4 and 5. -/
def execUnpackCh3 (p : Payload) (s : State) : Answer :=
  .next (s.drive [(3, channelField p 4 2 1)])

/-- UNPACK.CH4 (R92): ChannelBuffer indices 5 and 6. -/
def execUnpackCh4 (p : Payload) (s : State) : Answer :=
  .next (s.drive [(4, channelField p 5 2 4)])

/-- UNPACK.CH5 (R93): ChannelBuffer indices 6, 7 and 8. -/
def execUnpackCh5 (p : Payload) (s : State) : Answer :=
  .next (s.drive [(5, channelField p 6 3 7)])

/-- UNPACK.CH6 (R94): ChannelBuffer indices 8 and 9. -/
def execUnpackCh6 (p : Payload) (s : State) : Answer :=
  .next (s.drive [(6, channelField p 8 2 2)])

/-- UNPACK.CH7 (R95): ChannelBuffer indices 9 and 10. -/
def execUnpackCh7 (p : Payload) (s : State) : Answer :=
  .next (s.drive [(7, channelField p 9 2 5)])

/-- UNPACK.CH8 (R96): ChannelBuffer indices 11 and 12. -/
def execUnpackCh8 (p : Payload) (s : State) : Answer :=
  .next (s.drive [(8, channelField p 11 2 0)])

/-- UNPACK.CH9 (R97): ChannelBuffer indices 12 and 13. -/
def execUnpackCh9 (p : Payload) (s : State) : Answer :=
  .next (s.drive [(9, channelField p 12 2 3)])

/-- UNPACK.CH10 (R98): ChannelBuffer indices 13, 14 and 15. -/
def execUnpackCh10 (p : Payload) (s : State) : Answer :=
  .next (s.drive [(10, channelField p 13 3 6)])

/-- UNPACK.CH11 (R99): ChannelBuffer indices 15 and 16. -/
def execUnpackCh11 (p : Payload) (s : State) : Answer :=
  .next (s.drive [(11, channelField p 15 2 1)])

/-- UNPACK.CH12 (R100): ChannelBuffer indices 16 and 17. -/
def execUnpackCh12 (p : Payload) (s : State) : Answer :=
  .next (s.drive [(12, channelField p 16 2 4)])

/-- UNPACK.CH13 (R101): ChannelBuffer indices 17, 18 and 19. -/
def execUnpackCh13 (p : Payload) (s : State) : Answer :=
  .next (s.drive [(13, channelField p 17 3 7)])

/-- UNPACK.CH14 (R102): ChannelBuffer indices 19 and 20. -/
def execUnpackCh14 (p : Payload) (s : State) : Answer :=
  .next (s.drive [(14, channelField p 19 2 2)])

/-- UNPACK.CH15 (R103): ChannelBuffer indices 20 and 21. -/
def execUnpackCh15 (p : Payload) (s : State) : Answer :=
  .next (s.drive [(15, channelField p 20 2 5)])

end Sys2Proof.Machine
end

