-- ==== Sys2Proof/Machine/Dispatch.lean ====
section
/-! DEFINITION. One arm per operation of the table. -/

namespace Sys2Proof.Machine

def exec (i : Instr) (s : State) : Host.Outcome State Fault Refusal :=
  match i with
  | .hdrSync => Sys2Proof.Machine.execHdrSync s
  | .hdrSkip b => Sys2Proof.Machine.execHdrSkip b s
  | .collect b => Sys2Proof.Machine.execCollect b s
  | .collectLast b => Sys2Proof.Machine.execCollectLast b s
  | .extras b => Sys2Proof.Machine.execExtras b s
  | .ftrSync => Sys2Proof.Machine.execFtrSync s
  | .ftrDrop b => Sys2Proof.Machine.execFtrDrop b s
  | .unpack p => Sys2Proof.Machine.execUnpack p s
  | .unpackCh0 p => Sys2Proof.Machine.execUnpackCh0 p s
  | .unpackCh1 p => Sys2Proof.Machine.execUnpackCh1 p s
  | .unpackCh2 p => Sys2Proof.Machine.execUnpackCh2 p s
  | .unpackCh3 p => Sys2Proof.Machine.execUnpackCh3 p s
  | .unpackCh4 p => Sys2Proof.Machine.execUnpackCh4 p s
  | .unpackCh5 p => Sys2Proof.Machine.execUnpackCh5 p s
  | .unpackCh6 p => Sys2Proof.Machine.execUnpackCh6 p s
  | .unpackCh7 p => Sys2Proof.Machine.execUnpackCh7 p s
  | .unpackCh8 p => Sys2Proof.Machine.execUnpackCh8 p s
  | .unpackCh9 p => Sys2Proof.Machine.execUnpackCh9 p s
  | .unpackCh10 p => Sys2Proof.Machine.execUnpackCh10 p s
  | .unpackCh11 p => Sys2Proof.Machine.execUnpackCh11 p s
  | .unpackCh12 p => Sys2Proof.Machine.execUnpackCh12 p s
  | .unpackCh13 p => Sys2Proof.Machine.execUnpackCh13 p s
  | .unpackCh14 p => Sys2Proof.Machine.execUnpackCh14 p s
  | .unpackCh15 p => Sys2Proof.Machine.execUnpackCh15 p s
  | .reset => Sys2Proof.Machine.execReset s
  | .idle => Sys2Proof.Machine.execIdle s
  | .accept => Sys2Proof.Machine.execAccept s

end Sys2Proof.Machine
end

