-- ==== Sys2Proof/Machine/Step.lean ====
section
/-! DEFINITION. One clock edge (40_frame_decoder.md R84): the operation R66 selects is performed. -/

namespace Sys2Proof.Machine

/-- One step: the operation the state and the presented port cycle select, executed. -/
def step (s : State) : Host.Outcome State Fault Refusal := exec s.fetch s

/-- The host's placing of an instruction word where the next step takes it (log 10). -/
def State.withFetchWord (s : State) (nbits w : Nat) : State := s.placeWord nbits w

end Sys2Proof.Machine
end

