-- ==== Sys2Proof/Machine/Run.lean ====
section
/-! DEFINITION. Runs: the fold of the step and the concatenation of its event lists (00_scope.md R10), and the
abstract step function `accept` on the document's own state (R10, 40_frame_decoder.md R67). -/

namespace Sys2Proof.Machine

/-- `n` steps: the state reached and all events in order; nothing if a step stops. -/
def run : Nat → State → Option (State × List Event)
  | 0, s => some (s, [])
  | n + 1, s =>
    match step s with
    | .next t => (run n t).map fun r => (r.1, t.out.events ++ r.2)
    | .fault _ => none
    | .refused _ => none

/-- The host presents these bytes next, one per cycle, and then nothing (R131). -/
def State.feed (s : State) (xs : List RawByte) : State := { s with input := xs.map PortCycle.ofByte }

/-- The document's state between two calls: the FrameState with what is live in it, the pending header interval and
the bytes collected so far (R13, R16 in the list form R17 allows). -/
inductive Phase where
  | awaitingHeader
  | collecting (hdr : TimeInterval) (bytes : List Byte)
  | awaitingExtras (hdr : TimeInterval) (bytes : List Byte)
  | awaitingFooter (hdr : TimeInterval) (bytes : List Byte)
deriving DecidableEq, Repr

/-- `accept` as R67 writes it, over the document's state: append, then test the length. -/
def acceptByte (ph : Phase) (x : RawByte) : Phase × List Event :=
  match ph with
  | .awaitingHeader =>
    if x.byte = Config.headerMarker then (.collecting ⟨x.start, x.stop⟩ [], []) else (.awaitingHeader, [])
  | .collecting h bs =>
    if (bs ++ [x.byte]).length = Config.channelsBytes then (.awaitingExtras h (bs ++ [x.byte]), [])
    else (.collecting h (bs ++ [x.byte]), [])
  | .awaitingExtras h bs => (.awaitingFooter h bs, [])
  | .awaitingFooter h bs =>
    if x.byte = Config.footerMarker then
      (.awaitingHeader,
        [.header h.start h.stop, .channel h.stop x.start (unpackAll (payloadOf bs)), .footer x.start x.stop])
    else (.awaitingHeader, [])

/-- `accept` folded over a stream (R10). -/
def acceptAll : Phase → List RawByte → Phase × List Event
  | ph, [] => (ph, [])
  | ph, x :: xs =>
    let r := acceptByte ph x
    let q := acceptAll r.1 xs
    (q.1, r.2 ++ q.2)

/-- The bytes held in the buffer: those below `cnt` (R16). -/
def State.bytes (s : State) : List Byte := (List.range s.cnt.toNat).map fun i => (s.buf.read i).getD 0

/-- The document's state of a machine state. Stale buffer bytes, and `hdr` in AwaitingHeader, do not appear in it. -/
def State.phase (s : State) : Phase :=
  match s.st with
  | .awaitingHeader => .awaitingHeader
  | .collectingChannels => .collecting s.hdr s.bytes
  | .awaitingExtras => .awaitingExtras s.hdr s.bytes
  | .awaitingFooter => .awaitingFooter s.hdr s.bytes

end Sys2Proof.Machine
end

