-- ==== Sys2Proof/Safety.lean ====
section
/-! DEFINITION. The invariant of R23, the host's premises on a stream (70_reset_and_hazards.md R133), and what two
states or runs share: the terms the claims use. -/

namespace Sys2Proof.Machine

/-- R23: the combination of `st` and `cnt` is one of the 25 (INV1 to INV3, INV6), the buffer's contents are in
canonical form, and every byte below `cnt` is held (what INV5 says of one state). -/
def State.Inv (s : State) : Prop :=
  s.legal = true ∧ s.buf.wf = true ∧ ∀ i, i < s.cnt.toNat → (s.buf.read i).isSome = true

/-- At a frame boundary: AwaitingHeader with an empty buffer, position 0 (R19). -/
def State.atBoundary (s : State) : Prop := s.st = .awaitingHeader ∧ s.cnt = 0

/-- The byte listed at a buffer index, readable or stale: the read the frame statements use. -/
def State.listed (s : State) (i : Nat) : Option Byte := s.buf.read i

/-- The host's timestamp premise on a stream (R133). DESIGN CHOICE (log 1): the order on TS, which the spec leaves open,
is that of unsigned W_TS-bit numbers. -/
def ordered : List RawByte → Prop
  | [] => True
  | [x] => x.start ≤ x.stop
  | x :: y :: xs => x.start ≤ x.stop ∧ x.stop ≤ y.start ∧ ordered (y :: xs)

/-- The bounds of an event's interval. -/
def Event.interval : Event → TimeInterval
  | .header a b => ⟨a, b⟩
  | .channel a b _ => ⟨a, b⟩
  | .footer a b => ⟨a, b⟩

/-- Renaming of timestamps: what a block that only copies them cannot tell apart (R6, R80). -/
def TimeInterval.rename (f : TS → TS) (v : TimeInterval) : TimeInterval := ⟨f v.start, f v.stop⟩

def Event.rename (f : TS → TS) : Event → Event
  | .header a b => .header (f a) (f b)
  | .channel a b ch => .channel (f a) (f b) ch
  | .footer a b => .footer (f a) (f b)

def PortCycle.rename (f : TS → TS) (c : PortCycle) : PortCycle := { c with start := f c.start, stop := f c.stop }

/-- Every timestamp of a state renamed. -/
def State.rename (f : TS → TS) (s : State) : State :=
  { s with
    hdr := TimeInterval.rename f s.hdr
    input := s.input.map (PortCycle.rename f)
    out := { s.out with events := s.out.events.map (Event.rename f) } }

/-- A port cycle that presents nothing and does not reset (R81). -/
def PortCycle.isIdle (c : PortCycle) : Bool := !c.rst && !c.inValid

/-- The input without its idle cycles (R140). -/
def State.withoutIdle (s : State) : State := { s with input := s.input.filter fun c => !c.isIdle }

/-- The architectural state of the block, without the ports (R13, R27). -/
def State.core (s : State) : FrameState × BitVec 5 × Memory × TimeInterval × Nat := (s.st, s.cnt, s.buf, s.hdr, s.draws)

/-- One cycle of the stream: header byte, 22 channel bytes, extras byte, footer candidate (R49, R65 CYCLE). -/
def cycleBytes (h : RawByte) (ds : List RawByte) (e f : RawByte) : List RawByte := h :: (ds ++ [e, f])

end Sys2Proof.Machine
end

