-- ==== Sys2Proof/Certificates/Slice0/Obligations.lean ====
section
/-! DEFINITION. The statements for the provers. -/

open Sys2Proof Sys2Proof.Machine

/-- R61: of the seven rows of the opcode map exactly one applies to each of the 2048 selection words, and it is the
row of the operation the decoder gives. -/
def Obligations.SelRowsPartitionSelectionWords : Prop :=
  ∀ w : BitVec 11, selRows.filter (fun r => r.applies w.toNat) = [(decode (.sel w)).row]

/-- R62: `1x` is RESET, `00` IDLE, `01` ACCEPT, and exactly one row of format C applies to each control word. -/
def Obligations.ControlWordSelectsPortOperation : Prop :=
  decode (.control 0b10#2) = .reset ∧ decode (.control 0b11#2) = .reset ∧ decode (.control 0b00#2) = .idle ∧
  decode (.control 0b01#2) = .accept ∧
  ∀ w : BitVec 2, controlRows.filter (fun r => r.applies w.toNat) = [(decode (.control w)).row]

/-- R61, R62, R53: decoding the encoding of a well-formed operation gives the operation back, every operand at every
value its encoding admits. The tag of the P rows is the model's choice (log 9). -/
def Obligations.DecodeOfEncodeIsIdentity : Prop :=
  ∀ i : Instr, i.wf = true → decode (encode i) = i

/-- R61, R62: encoding what a word decodes to gives the word back but for the bit its row does not test: `last` outside
CollectingChannels, `in_valid` in RESET. Payload words come back whole. -/
def Obligations.EncodeOfDecodeKeepsTestedBits : Prop :=
  (∀ w : BitVec 11, selState w = .collectingChannels → encode (decode (.sel w)) = .sel w) ∧
  (∀ w : BitVec 11, selState w ≠ .collectingChannels → encode (decode (.sel w)) = .sel (w &&& 0x6FF)) ∧
  (∀ row p, encode (decode (.payload row p)) = .payload row p) ∧
  (∀ w : BitVec 2, encode (decode (.control w)) = .control (if w.getLsbD 1 then 0b10 else w))

/-- Words written out from the opcode map (R61, R62) and laid out in bytes, first byte least significant (R33),
decode to the operations they stand for. The byte layout is the model's choice (log 11). -/
def Obligations.WordsOfTheOpcodeMapDecode : Prop :=
  decodeBytes [0x0F, 0x00] = .ok .hdrSync ∧
  decodeBytes [0x55, 0x00] = .ok (.hdrSkip 0x55) ∧
  decodeBytes [0x0F, 0x02] = .ok (.collect 0x0F) ∧
  decodeBytes [0x34, 0x03] = .ok (.collectLast 0x34) ∧
  decodeBytes [0x0F, 0x04] = .ok (.extras 0x0F) ∧
  decodeBytes [0x00, 0x06] = .ok .ftrSync ∧
  decodeBytes [0x0F, 0x06] = .ok (.ftrDrop 0x0F) ∧
  decodeBytes (List.replicate 22 0xFF) = .ok (.unpack (BitVec.allOnes 176)) ∧
  decodeBytes [0x02] = .ok .reset ∧ decodeBytes [0x00] = .ok .idle ∧ decodeBytes [0x01] = .ok .accept

/-- Every selection word, UNPACK payload and control word laid out in bytes decodes as the word does, and bytes of any
other shape are rejected by name (R59, R63; the byte layout is the model's, log 11). -/
def Obligations.ByteLayoutRoundTrips : Prop :=
  (∀ w : BitVec 11, decodeBytes (codeBytes (.sel w)) = .ok (decode (.sel w))) ∧
  (∀ p : Payload, decodeBytes (codeBytes (.payload .whole p)) = .ok (.unpack p)) ∧
  (∀ w : BitVec 2, decodeBytes (codeBytes (.control w)) = .ok (decode (.control w))) ∧
  (∀ bs : List Byte, bs.length ≠ 1 → bs.length ≠ 2 → bs.length ≠ 22 →
    decodeBytes bs = .error (.noFormat bs.length)) ∧
  (∀ lo hi : Byte, 8 ≤ hi.toNat → decodeBytes [lo, hi] = .error (.beyondWidth .s)) ∧
  (∀ b : Byte, 4 ≤ b.toNat → decodeBytes [b] = .error (.beyondWidth .c))

/-- R66: a step executes the operation the ports and the state select: RESET if rst, else IDLE if no byte is presented,
else the operation the selection word `{st, cnt == 21, byte}` names. Nothing is added around exec. -/
def Obligations.StepRunsTheSelectedOperation : Prop :=
  ∀ s : State,
    (s.port.rst = true → step s = exec .reset s) ∧
    (s.port.rst = false → s.port.inValid = false → step s = exec .idle s) ∧
    (s.port.rst = false → s.port.inValid = true →
      step s = exec (decode (.sel (selWord s.st (s.cnt == 21) s.port.byte))) s)

/-- R62, R67: when a byte is presented, ACCEPT does what the operation named by the selection word does, and that is
the step. -/
def Obligations.AcceptPerformsTheSelectedOperation : Prop :=
  ∀ s : State, s.port.rst = false → s.port.inValid = true →
    exec .accept s = exec (decode (.sel (selWord s.st (s.cnt == 21) s.port.byte))) s ∧ exec .accept s = step s

/-- R60, R61: the operation a step selects is always well formed, and the selection word decodes back to the FrameState,
`last` and byte it was made of. -/
def Obligations.SelectedOperationIsWellFormed : Prop :=
  (∀ s : State, s.fetch.wf = true) ∧
  ∀ st l b, selState (selWord st l b) = st ∧ selLast (selWord st l b) = l ∧ selByte (selWord st l b) = b

/-- R68, HDR_SKIP: in AwaitingHeader every byte other than 0x0F is ignored: nothing changes and no event is emitted. -/
def Obligations.HdrSkipChangesNothing : Prop :=
  ∀ (s : State) (x : RawByte) (rest : List PortCycle), s.st = .awaitingHeader → s.cnt = 0 → x.byte ≠ 0x0F#8 →
    s.input = PortCycle.ofByte x :: rest →
    s.sel &&& 0x600 = 0x000 ∧ s.fetch = .hdrSkip x.byte ∧
    exec (.hdrSkip x.byte) s = .next { s with input := rest, out := ⟨[], []⟩ }

/-- R69, HDR_SYNC: in AwaitingHeader the byte 0x0F records its interval and starts the collection; no event. -/
def Obligations.HdrSyncRecordsTheHeader : Prop :=
  ∀ (s : State) (x : RawByte) (rest : List PortCycle), s.st = .awaitingHeader → s.cnt = 0 → x.byte = 0x0F#8 →
    s.input = PortCycle.ofByte x :: rest →
    s.sel &&& 0x6FF = 0x00F ∧ s.fetch = .hdrSync ∧
    exec .hdrSync s =
      .next { s with st := .collectingChannels, hdr := ⟨x.start, x.stop⟩, input := rest, out := ⟨[], []⟩ }

/-- R70, COLLECT: with `cnt` at most 20 the byte, whatever it is, goes to `buf[cnt]` and is readable there, `cnt` counts
one up and stays at most 21; every other index, and all else but the ports, is unchanged. -/
def Obligations.CollectStoresTheByte : Prop :=
  ∀ (s : State) (x : RawByte) (rest : List PortCycle), s.st = .collectingChannels → s.cnt.toNat ≤ 20 →
    s.input = PortCycle.ofByte x :: rest →
    s.sel &&& 0x700 = 0x200 ∧ s.fetch = .collect x.byte ∧
    ∃ t, exec (.collect x.byte) s = .next t ∧
      t = { s with buf := t.buf, cnt := s.cnt + 1, input := rest, out := ⟨[], []⟩ } ∧
      t.cnt.toNat = s.cnt.toNat + 1 ∧ t.readByte s.cnt.toNat = .ok x.byte ∧
      ∀ a, a ≠ s.cnt.toNat → t.listed a = s.listed a

/-- R71, COLLECT_LAST: with `cnt` = 21 the byte goes to `buf[21]`, `cnt` is 22 and the block awaits the extras byte; no
event; every other index, and all else but the ports, is unchanged. -/
def Obligations.CollectLastCompletesTheBuffer : Prop :=
  ∀ (s : State) (x : RawByte) (rest : List PortCycle), s.st = .collectingChannels → s.cnt = 21 →
    s.input = PortCycle.ofByte x :: rest →
    s.sel &&& 0x700 = 0x300 ∧ s.fetch = .collectLast x.byte ∧
    ∃ t, exec (.collectLast x.byte) s = .next t ∧
      t = { s with buf := t.buf, cnt := 22, st := .awaitingExtras, input := rest, out := ⟨[], []⟩ } ∧
      t.readByte 21 = .ok x.byte ∧ ∀ a, a ≠ s.cnt.toNat → t.listed a = s.listed a

/-- R75, EXTRAS: in AwaitingExtras any byte moves the block to AwaitingFooter; it is stored nowhere and no event is
emitted. -/
def Obligations.ExtrasIsConsumedAndForgotten : Prop :=
  ∀ (s : State) (x : RawByte) (rest : List PortCycle), s.st = .awaitingExtras → s.cnt = 22 →
    s.input = PortCycle.ofByte x :: rest →
    s.sel &&& 0x600 = 0x400 ∧ s.fetch = .extras x.byte ∧
    exec (.extras x.byte) s = .next { s with st := .awaitingFooter, input := rest, out := ⟨[], []⟩ }

/-- R76, FTR_SYNC: in AwaitingFooter with the 22 bytes `bs` held, the byte 0x00 emits header, channel and footer events
in that order, all timestamps copied, the channel values those of the 22 bytes (R86), and returns to AwaitingHeader
with an empty buffer. Only an operation on a byte 0x00 in AwaitingFooter emits events. That the stored bytes stay,
stale, is the model's choice (log 6), and that `hdr` keeps its value is its reading (log 14). -/
def Obligations.FtrSyncEmitsTheFrame : Prop :=
  (∀ (s : State) (x : RawByte) (rest : List PortCycle) (bs : List Byte), s.st = .awaitingFooter → s.cnt = 22 →
    x.byte = 0x00#8 → bs.length = 22 → (∀ i, i < 22 → s.listed i = bs[i]?) →
    s.input = PortCycle.ofByte x :: rest →
    s.sel &&& 0x6FF = 0x600 ∧ s.fetch = .ftrSync ∧
    ∃ t, exec .ftrSync s = .next t ∧
      t = { s with st := .awaitingHeader, cnt := 0, input := rest, out := t.out } ∧
      t.out.events =
        [.header s.hdr.start s.hdr.stop,
         .channel s.hdr.stop x.start ((List.range 16).map fun k => (payloadOf bs).extractLsb' (11 * k) 11),
         .footer x.start x.stop]) ∧
  (∀ (i : Instr) (s t : State), exec i s = .next t → t.out.events ≠ [] →
    s.st = .awaitingFooter ∧ s.port.byte = 0x00#8 ∧ (i = .ftrSync ∨ i = .accept))

/-- R77, FTR_DROP: in AwaitingFooter every byte other than 0x00, 0x0F included, drops the cycle: back to
AwaitingHeader with an empty buffer, no event, nothing else changed. That the stored bytes stay, stale, is the model's choice (log 6),
and that `hdr` keeps its value is its reading (log 14). -/
def Obligations.FtrDropDropsTheCycle : Prop :=
  ∀ (s : State) (x : RawByte) (rest : List PortCycle), s.st = .awaitingFooter → s.cnt = 22 → x.byte ≠ 0x00#8 →
    s.input = PortCycle.ofByte x :: rest →
    s.sel &&& 0x600 = 0x600 ∧ s.fetch = .ftrDrop x.byte ∧
    exec (.ftrDrop x.byte) s =
      .next { s with st := .awaitingHeader, cnt := 0, input := rest, out := ⟨[], []⟩ }

/-- R81, IDLE: with rst = 0 and in_valid = 0 all state is held and no event is emitted, from every state; the same when
the host presents nothing more (R130; the model's reading, log 2). -/
def Obligations.IdleHoldsAllState : Prop :=
  ∀ s : State, s.port.rst = false → s.port.inValid = false →
    exec .idle s = .next { s with input := s.input.tail, out := ⟨[], []⟩ }

/-- R82, RESET: with rst = 1, whatever in_valid and the byte are and from any state, the block goes to AwaitingHeader
with an empty buffer in which nothing is readable, emits nothing and discards the presented byte. `hdr` becomes a free
value (log 3): the statement holds for every value of it. -/
def Obligations.ResetRestartsFromAnyState : Prop :=
  ∀ (s : State) (c : PortCycle) (rest : List PortCycle), s.input = c :: rest → c.rst = true →
    ∃ t, exec .reset s = .next t ∧
      t = { s with st := .awaitingHeader, cnt := 0, buf := [], hdr := t.hdr, draws := t.draws, input := rest,
                   out := ⟨[], []⟩ } ∧
      ∀ a, ∃ f, t.readByte a = .error f

/-- R85, UNPACK: total on every payload; it drives channel k = P[11k+10 : 11k] for the sixteen channels and changes
nothing else. The result lanes are the model's (log 4, log 10). -/
def Obligations.UnpackDrivesSixteenSlices : Prop :=
  ∀ (p : Payload) (s : State),
    exec (.unpack p) s = .next { s with
      out := ⟨[], [(0, p.extractLsb' 0 11), (1, p.extractLsb' 11 11), (2, p.extractLsb' 22 11),
        (3, p.extractLsb' 33 11), (4, p.extractLsb' 44 11), (5, p.extractLsb' 55 11), (6, p.extractLsb' 66 11),
        (7, p.extractLsb' 77 11), (8, p.extractLsb' 88 11), (9, p.extractLsb' 99 11), (10, p.extractLsb' 110 11),
        (11, p.extractLsb' 121 11), (12, p.extractLsb' 132 11), (13, p.extractLsb' 143 11),
        (14, p.extractLsb' 154 11), (15, p.extractLsb' 165 11)]⟩ }

/-- R88 to R95: each channel extraction drives its slice of P, computed from two or three bytes, on its own
lane and changes nothing else, and the slice is made of the bits of those bytes the rule names. -/
def Obligations.LowEightChannelsAreTheirFields : Prop :=
  ∀ (p : Payload) (s : State),
    (exec (.unpackCh0 p) s = .next { s with out := ⟨[], [(0, p.extractLsb' 0 11)]⟩ } ∧
      p.extractLsb' 0 11 = (payloadByte p 1).extractLsb' 0 3 ++ (payloadByte p 0).extractLsb' 0 8) ∧
    (exec (.unpackCh1 p) s = .next { s with out := ⟨[], [(1, p.extractLsb' 11 11)]⟩ } ∧
      p.extractLsb' 11 11 = (payloadByte p 2).extractLsb' 0 6 ++ (payloadByte p 1).extractLsb' 3 5) ∧
    (exec (.unpackCh2 p) s = .next { s with out := ⟨[], [(2, p.extractLsb' 22 11)]⟩ } ∧
      p.extractLsb' 22 11 = (payloadByte p 4).extractLsb' 0 1 ++ (payloadByte p 3).extractLsb' 0 8 ++ (payloadByte p 2).extractLsb' 6 2) ∧
    (exec (.unpackCh3 p) s = .next { s with out := ⟨[], [(3, p.extractLsb' 33 11)]⟩ } ∧
      p.extractLsb' 33 11 = (payloadByte p 5).extractLsb' 0 4 ++ (payloadByte p 4).extractLsb' 1 7) ∧
    (exec (.unpackCh4 p) s = .next { s with out := ⟨[], [(4, p.extractLsb' 44 11)]⟩ } ∧
      p.extractLsb' 44 11 = (payloadByte p 6).extractLsb' 0 7 ++ (payloadByte p 5).extractLsb' 4 4) ∧
    (exec (.unpackCh5 p) s = .next { s with out := ⟨[], [(5, p.extractLsb' 55 11)]⟩ } ∧
      p.extractLsb' 55 11 = (payloadByte p 8).extractLsb' 0 2 ++ (payloadByte p 7).extractLsb' 0 8 ++ (payloadByte p 6).extractLsb' 7 1) ∧
    (exec (.unpackCh6 p) s = .next { s with out := ⟨[], [(6, p.extractLsb' 66 11)]⟩ } ∧
      p.extractLsb' 66 11 = (payloadByte p 9).extractLsb' 0 5 ++ (payloadByte p 8).extractLsb' 2 6) ∧
    (exec (.unpackCh7 p) s = .next { s with out := ⟨[], [(7, p.extractLsb' 77 11)]⟩ } ∧
      p.extractLsb' 77 11 = (payloadByte p 10).extractLsb' 0 8 ++ (payloadByte p 9).extractLsb' 5 3)

/-- R96 to R103: each channel extraction drives its slice of P, computed from two or three bytes, on its own
lane and changes nothing else, and the slice is made of the bits of those bytes the rule names. -/
def Obligations.HighEightChannelsAreTheirFields : Prop :=
  ∀ (p : Payload) (s : State),
    (exec (.unpackCh8 p) s = .next { s with out := ⟨[], [(8, p.extractLsb' 88 11)]⟩ } ∧
      p.extractLsb' 88 11 = (payloadByte p 12).extractLsb' 0 3 ++ (payloadByte p 11).extractLsb' 0 8) ∧
    (exec (.unpackCh9 p) s = .next { s with out := ⟨[], [(9, p.extractLsb' 99 11)]⟩ } ∧
      p.extractLsb' 99 11 = (payloadByte p 13).extractLsb' 0 6 ++ (payloadByte p 12).extractLsb' 3 5) ∧
    (exec (.unpackCh10 p) s = .next { s with out := ⟨[], [(10, p.extractLsb' 110 11)]⟩ } ∧
      p.extractLsb' 110 11 = (payloadByte p 15).extractLsb' 0 1 ++ (payloadByte p 14).extractLsb' 0 8 ++ (payloadByte p 13).extractLsb' 6 2) ∧
    (exec (.unpackCh11 p) s = .next { s with out := ⟨[], [(11, p.extractLsb' 121 11)]⟩ } ∧
      p.extractLsb' 121 11 = (payloadByte p 16).extractLsb' 0 4 ++ (payloadByte p 15).extractLsb' 1 7) ∧
    (exec (.unpackCh12 p) s = .next { s with out := ⟨[], [(12, p.extractLsb' 132 11)]⟩ } ∧
      p.extractLsb' 132 11 = (payloadByte p 17).extractLsb' 0 7 ++ (payloadByte p 16).extractLsb' 4 4) ∧
    (exec (.unpackCh13 p) s = .next { s with out := ⟨[], [(13, p.extractLsb' 143 11)]⟩ } ∧
      p.extractLsb' 143 11 = (payloadByte p 19).extractLsb' 0 2 ++ (payloadByte p 18).extractLsb' 0 8 ++ (payloadByte p 17).extractLsb' 7 1) ∧
    (exec (.unpackCh14 p) s = .next { s with out := ⟨[], [(14, p.extractLsb' 154 11)]⟩ } ∧
      p.extractLsb' 154 11 = (payloadByte p 20).extractLsb' 0 5 ++ (payloadByte p 19).extractLsb' 2 6) ∧
    (exec (.unpackCh15 p) s = .next { s with out := ⟨[], [(15, p.extractLsb' 165 11)]⟩ } ∧
      p.extractLsb' 165 11 = (payloadByte p 21).extractLsb' 0 8 ++ (payloadByte p 20).extractLsb' 5 3)

/-- R67, R10: from a state that meets the invariant, ACCEPT always completes, and what it does is the document's
`accept` on the document's state: same next state, same event list. -/
def Obligations.AcceptRefinesTheDocument : Prop :=
  ∀ (s : State) (x : RawByte) (rest : List PortCycle), s.Inv → s.input = PortCycle.ofByte x :: rest →
    ∃ t, exec .accept s = .next t ∧ t.Inv ∧ t.phase = (acceptByte s.phase x).1 ∧
      t.out.events = (acceptByte s.phase x).2 ∧ t.input = rest ∧ t.draws = s.draws

/-- R10: a run over any finite stream is the fold of `accept`: the end state and the concatenated events agree. -/
def Obligations.RunIsTheFoldOfAccept : Prop :=
  ∀ (s : State) (xs : List RawByte), s.Inv →
    ∃ t ev, run xs.length (s.feed xs) = some (t, ev) ∧ t.Inv ∧ (t.phase, ev) = acceptAll s.phase xs

/-- R23: the state after reset meets the invariant, is at position 0 and holds no readable byte and no event (R28). The
state is the spec's own decision D6; the value of `hdr` is the model's (log 3) and is not used. -/
def Obligations.ResetStateMeetsInvariant : Prop :=
  State.reset.Inv ∧ State.reset.st = .awaitingHeader ∧ State.reset.cnt = 0 ∧ State.reset.pos = 0 ∧
  State.reset.out.events = [] ∧ ∀ a, ∃ f, State.reset.readByte a = .error f

/-- R23: every step keeps the invariant, from every state that meets it, whatever the host presents. -/
def Obligations.EveryStepKeepsInvariant : Prop :=
  ∀ s t : State, s.Inv → step s = .next t → t.Inv

/-- R11, R109: from a state that meets the invariant a step always answers a next state: no fault and no refusal, on
any input. -/
def Obligations.NoStepStopsUnderInvariant : Prop :=
  ∀ s : State, s.Inv → ∃ t, step s = .next t

/-- R24, U3: an accepted byte in an unreachable combination of `st` and `cnt` is refused by name; RESET still leaves it. -/
def Obligations.UnreachableCombinationIsRefused : Prop :=
  ∀ s : State, s.legal = false →
    (s.port.rst = false → s.port.inValid = true → step s = .refused .unreachableState) ∧
    (s.port.rst = true → ∃ t, step s = .next t ∧ t.st = .awaitingHeader ∧ t.cnt = 0)

/-- The model's choice (log 8): an operation of format S or C other than the one selected is refused by name and does
nothing. -/
def Obligations.UnselectedOperationIsRefused : Prop :=
  ∀ (s : State) (i : Instr), i ≠ s.fetch → i.row.format ≠ .p → (i = .accept → s.presents = false) →
    exec i s = .refused .notSelected

/-- R74: the FrameState changes only along the seven edges of the transition table, and events appear on one edge only. -/
def Obligations.TransitionTableIsComplete : Prop :=
  ∀ (s : State) (x : RawByte) (rest : List PortCycle), s.Inv → s.input = PortCycle.ofByte x :: rest →
    ∃ t, step s = .next t ∧
      t.st = (match s.st with
        | .awaitingHeader => if x.byte = 0x0F#8 then .collectingChannels else .awaitingHeader
        | .collectingChannels => if s.cnt = 21 then .awaitingExtras else .collectingChannels
        | .awaitingExtras => .awaitingFooter
        | .awaitingFooter => .awaitingHeader) ∧
      (t.out.events ≠ [] ↔ s.st = .awaitingFooter ∧ x.byte = 0x00#8)

/-- R20: how an accepted byte moves the protocol position: stay at or leave 0 by the header test, wrap from 24 to 0,
else one on. -/
def Obligations.PositionAdvancesByOne : Prop :=
  ∀ (s : State) (x : RawByte) (rest : List PortCycle), s.Inv → s.input = PortCycle.ofByte x :: rest →
    ∃ t, step s = .next t ∧
      t.pos = (if s.pos = 0 then (if x.byte = 0x0F#8 then 1 else 0) else if s.pos = 24 then 0 else s.pos + 1)

/-- R15, R30: `cnt` counts up by exactly one in COLLECT and COLLECT_LAST, is set to 0 by FTR_SYNC, FTR_DROP and RESET,
is changed by nothing else, and never wraps. -/
def Obligations.CursorIsWrittenOnlyAsStated : Prop :=
  ∀ (i : Instr) (s t : State), exec i s = .next t →
    (match (if i = .accept then s.fetch else i) with
      | .collect _ | .collectLast _ => s.cnt.toNat < 22 ∧ t.cnt.toNat = s.cnt.toNat + 1
      | .ftrSync | .ftrDrop _ | .reset => t.cnt = 0
      | _ => t.cnt = s.cnt)

/-- R18, R30: `hdr` is written by HDR_SYNC, with the presented byte's interval, and by nothing else but RESET, after which
it is unspecified; HDR_SYNC and RESET aside, every operation leaves it. -/
def Obligations.HeaderIntervalIsWrittenOnlyByHdrSync : Prop :=
  ∀ (i : Instr) (s t : State), exec i s = .next t →
    (match (if i = .accept then s.fetch else i) with
      | .hdrSync => t.hdr = ⟨s.port.start, s.port.stop⟩
      | .reset => True
      | _ => t.hdr = s.hdr)

/-- R30, R38: every byte of the ChannelBuffer is unchanged by every operation except the one byte at index `cnt` that
COLLECT and COLLECT_LAST store, and RESET, after which nothing is listed. -/
def Obligations.BufferIsWrittenOnlyAtTheCursor : Prop :=
  ∀ (i : Instr) (s t : State), exec i s = .next t →
    (match (if i = .accept then s.fetch else i) with
      | .collect b | .collectLast b =>
        t.listed s.cnt.toNat = some b ∧ ∀ a, a ≠ s.cnt.toNat → t.listed a = s.listed a
      | .reset => ∀ a, t.listed a = none
      | _ => ∀ a, t.listed a = s.listed a)

/-- R30, R41, R85: `st` is written only by HDR_SYNC, COLLECT_LAST, EXTRAS, FTR_SYNC, FTR_DROP and RESET; the input port is
consumed by every clocked operation, one cycle each, and by no BitUnpacker operation; the count of free values moves
only in RESET (the model's, log 5). -/
def Obligations.FrameStateAndPortsAreWrittenOnlyAsStated : Prop :=
  ∀ (i : Instr) (s t : State), exec i s = .next t →
    (match (if i = .accept then s.fetch else i) with
      | .hdrSync => t.st = .collectingChannels
      | .collectLast _ => t.st = .awaitingExtras
      | .extras _ => t.st = .awaitingFooter
      | .ftrSync | .ftrDrop _ | .reset => t.st = .awaitingHeader
      | _ => t.st = s.st) ∧
    t.input = (if i.row.format = .p then s.input else s.input.tail) ∧
    (i ≠ .reset → t.draws = s.draws)

/-- R46: stored bytes never select an operation: two states that agree on `st`, `cnt` and the input perform the same
operation and move to the same `st` and `cnt`, whatever their buffers and header intervals hold. -/
def Obligations.StoredDataNeverControls : Prop :=
  ∀ s u : State, s.Inv → u.Inv → s.st = u.st → s.cnt = u.cnt → s.input = u.input →
    s.fetch = u.fetch ∧ ∃ t v, step s = .next t ∧ step u = .next v ∧ t.st = v.st ∧ t.cnt = v.cnt ∧ t.input = v.input ∧
      t.out.events.length = v.out.events.length

/-- R79: the event list of an operation is empty or exactly header, channel, footer in that order, and it is that only
when the byte 0x00 is accepted in AwaitingFooter. The channel event has sixteen values and the intervals abut (R80). -/
def Obligations.EventsAreNoneOrOneTriple : Prop :=
  ∀ (i : Instr) (s t : State), exec i s = .next t →
    t.out.events = [] ∨
      (s.st = .awaitingFooter ∧ s.presents = true ∧ s.port.byte = 0x00#8 ∧
        ∃ hs he fs fe ch, ch.length = 16 ∧ t.out.events = [.header hs he, .channel he fs ch, .footer fs fe])

/-- INV4 and INV5 of R23, R72, R38: after a header byte and any number up to 22 of channel bytes, `hdr` is the header
byte's interval and `buf[i]` is the i-th of those bytes, in arrival order; nothing has been emitted. -/
def Obligations.CollectedBytesAndHeaderAreHeld : Prop :=
  ∀ (s : State) (h : RawByte) (ds : List RawByte), s.Inv → s.atBoundary → h.byte = 0x0F#8 → ds.length ≤ 22 →
    ∃ t, run (ds.length + 1) (s.feed (h :: ds)) = some (t, []) ∧ t.Inv ∧ t.hdr = ⟨h.start, h.stop⟩ ∧
      t.cnt.toNat = ds.length ∧ (∀ i (hi : i < ds.length), t.readByte i = .ok (ds[i].byte)) ∧
      t.st = (if ds.length = 22 then .awaitingExtras else .collectingChannels)

/-- R72, R74, R80, R83 (c): from any frame boundary, a header byte, 22 bytes, an extras byte and a footer candidate run
to the next frame boundary; if the last byte is 0x00 exactly one triple is emitted, with UNPACK of the 22 bytes and the
timestamps of the header and footer bytes, else nothing. -/
def Obligations.OneCycleDecodesOneFrame : Prop :=
  ∀ (s : State) (h e f : RawByte) (ds : List RawByte), s.Inv → s.atBoundary → h.byte = 0x0F#8 → ds.length = 22 →
    ∃ t, t.Inv ∧ t.atBoundary ∧ run 25 (s.feed (cycleBytes h ds e f)) = some (t,
      if f.byte = 0x00#8 then
        [.header h.start h.stop, .channel h.stop f.start (unpackAll (payloadOf (ds.map RawByte.byte))),
         .footer f.start f.stop]
      else [])

/-- R108: from any frame boundary the stream FRAME(c; x) of sixteen channel values produces exactly one triple whose
channel event carries those values, whatever the extras byte. -/
def Obligations.FrameDeliversItsChannels : Prop :=
  ∀ (s : State) (h e f : RawByte) (ds : List RawByte) (cs : List Chan), s.Inv → s.atBoundary →
    h.byte = 0x0F#8 → f.byte = 0x00#8 → cs.length = 16 → ds.map RawByte.byte = payloadBytes (pack cs) →
    ∃ t, run 25 (s.feed (cycleBytes h ds e f)) =
      some (t, [.header h.start h.stop, .channel h.stop f.start cs, .footer f.start f.stop])

/-- R116, R78: one failed footer, whatever its value, loses that cycle only: the next 25 bytes form a frame and yield the
one triple of the whole run. -/
def Obligations.RecoveryAfterOneFailedFooter : Prop :=
  ∀ (s : State) (h e f h' e' f' : RawByte) (ds ds' : List RawByte), s.Inv → s.atBoundary → h.byte = 0x0F#8 →
    ds.length = 22 → f.byte ≠ 0x00#8 → h'.byte = 0x0F#8 → ds'.length = 22 → f'.byte = 0x00#8 →
    ∃ t, t.atBoundary ∧ run 50 (s.feed (cycleBytes h ds e f ++ cycleBytes h' ds' e' f')) = some (t,
      [.header h'.start h'.stop, .channel h'.stop f'.start (unpackAll (payloadOf (ds'.map RawByte.byte))),
       .footer f'.start f'.stop])

/-- R83 (a): from a frame boundary a stream with no byte 0x0F emits nothing and leaves the block at the boundary, its
buffer and header interval untouched. -/
def Obligations.NoHeaderByteNoEvent : Prop :=
  ∀ (s : State) (xs : List RawByte), s.Inv → s.atBoundary → (∀ x ∈ xs, x.byte ≠ 0x0F#8) →
    ∃ t, run xs.length (s.feed xs) = some (t, []) ∧ t.core = s.core

/-- R83 (b): the events of any run, from any state, are a concatenation of header, channel, footer triples. -/
def Obligations.RunEventsAreTriples : Prop :=
  ∀ (n : Nat) (s t : State) (ev : List Event), run n s = some (t, ev) →
    ∃ k, ev.map Event.kind = (List.replicate k [0#2, 1#2, 2#2]).flatten

/-- R83 (d), R130: after a frame boundary no event comes before the 25th accepted byte, so two emitting steps are at
least 25 accepted bytes apart, and a stream that stops in mid-cycle emits nothing for it. -/
def Obligations.NoEventBeforeTheTwentyFifthByte : Prop :=
  ∀ (s : State) (xs : List RawByte), s.Inv → s.atBoundary → xs.length ≤ 24 →
    ∃ t, run xs.length (s.feed xs) = some (t, [])

/-- R74, R20: from position pos > 0 the block is back in AwaitingHeader after exactly 25 - pos accepted bytes whatever
their values (at most 24), and not sooner. -/
def Obligations.BoundaryIsReachedWithinOneCycle : Prop :=
  ∀ (s : State) (xs : List RawByte), s.Inv → s.st ≠ .awaitingHeader → xs.length ≤ 25 - s.pos →
    ∃ t ev, run xs.length (s.feed xs) = some (t, ev) ∧ (t.st = .awaitingHeader ↔ xs.length = 25 - s.pos)

/-- R17, R18, R21: what the document's state leaves out cannot be observed: two states with the same document state and
the same input produce the same events for ever, and stay alike, whatever their stale buffer bytes, their dead header
interval and their latest output. -/
def Obligations.StaleStateIsUnobservable : Prop :=
  ∀ (n : Nat) (s u : State), s.Inv → u.Inv → s.phase = u.phase → s.input = u.input →
    ∃ t v ev, run n s = some (t, ev) ∧ run n u = some (v, ev) ∧ t.phase = v.phase

/-- R83 (e), R126: at a frame boundary the block is as after reset as far as any later output can tell. The value of
`hdr` after reset is the model's (log 3) and does not matter. -/
def Obligations.BoundaryIsLikeReset : Prop :=
  ∀ (n : Nat) (s : State), s.Inv → s.atBoundary →
    ∃ t v ev, run n s = some (t, ev) ∧ run n { State.reset with input := s.input } = some (v, ev)

/-- R140, R81: taking every idle cycle out of the input changes neither the block's end state nor the events. -/
def Obligations.IdleCyclesChangeNothing : Prop :=
  ∀ s : State, s.Inv →
    ∃ t u ev, run s.input.length s = some (t, ev) ∧
      run s.withoutIdle.input.length s.withoutIdle = some (u, ev) ∧ t.core = u.core

/-- R130: when the host presents nothing more, the block holds its state for ever and emits nothing. That an empty input
is idle cycles is the model's reading (log 2). -/
def Obligations.EndOfStreamHoldsForEver : Prop :=
  ∀ (n : Nat) (s : State), s.input = [] →
    ∃ t, run n s = some (t, []) ∧ t.core = s.core ∧ t.input = []

/-- R80, R6: timestamps are only copied: renaming every timestamp of a state by any function renames the next state's
and its events' in the same way. RESET is left out: it writes a free value to `hdr` (log 3). -/
def Obligations.TimestampsAreOnlyCopied : Prop :=
  ∀ (f : TS → TS) (s t : State), s.port.rst = false → step s = .next t →
    step (s.rename f) = .next (t.rename f)

/-- R133, R80: under the host's timestamp premise an emitted triple's intervals are in order and abut. The order on the
open type TS is the model's choice (log 1): that of unsigned W_TS-bit numbers. -/
def Obligations.OrderedStreamGivesOrderedTriple : Prop :=
  ∀ (s : State) (h e f : RawByte) (ds : List RawByte), s.Inv → s.atBoundary → h.byte = 0x0F#8 → ds.length = 22 →
    f.byte = 0x00#8 → ordered (cycleBytes h ds e f) →
    ∃ t a b c, run 25 (s.feed (cycleBytes h ds e f)) = some (t, [a, b, c]) ∧
      a.interval.start ≤ a.interval.stop ∧ a.interval.stop = b.interval.start ∧
      b.interval.start ≤ b.interval.stop ∧ b.interval.stop = c.interval.start ∧ c.interval.start ≤ c.interval.stop

/-- R84: `out_valid` is 1 exactly in a cycle that emits the triple, and the parallel record, delivered header, channel,
footer, is that cycle's event list. The port form is the spec's own decision (D2, D8); what a step that stops
shows at the ports is the model's choice (log 12, log 19) and not part of this. -/
def Obligations.OutputPortCarriesTheTriple : Prop :=
  ∀ s t : State, step s = .next t →
    (s.outPort.valid = true ↔ t.out.events ≠ []) ∧ (s.outPort.valid = true ↔ s.outPort.record.isSome = true) ∧
    ∀ r, s.outPort.record = some r → t.out.events = r.serialise

/-- R86: channel k of every 22-byte buffer is bits 11k to 11k + 10 of its little-endian bitstream, at most 2047, and bit m
of it is bit (11k + m) mod 8 of byte (11k + m) div 8. -/
def Obligations.ChannelBitsComeFromTheirBytes : Prop :=
  ∀ (bs : List Byte) (k m : Nat), bs.length = 22 → k < 16 → m < 11 →
    ∃ c b, (unpackAll (payloadOf bs))[k]? = some c ∧ bs[(11 * k + m) / 8]? = some b ∧
      c = (payloadOf bs).extractLsb' (11 * k) 11 ∧ c.getLsbD m = b.getLsbD ((11 * k + m) % 8) ∧ c.toNat ≤ 2047

/-- R108, R105: unpacking what pack made of sixteen values gives the values back, packing what was unpacked gives the
payload back, and a payload is its 22 bytes. -/
def Obligations.PackAndUnpackAreInverse : Prop :=
  (∀ cs : List Chan, cs.length = 16 → unpackAll (pack cs) = cs) ∧
  (∀ p : Payload, pack (unpackAll p) = p) ∧
  (∀ p : Payload, payloadOf (payloadBytes p) = p) ∧
  (∀ bs : List Byte, bs.length = 22 → payloadBytes (payloadOf bs) = bs)

/-- R106: the corner cases of UNPACK: all zeros, all ones, one set bit, bitwise operations, and the period of eight
channels over two equal halves. -/
def Obligations.UnpackCornerCases : Prop :=
  unpackAll (payloadOf (List.replicate 22 0x00)) = List.replicate 16 0 ∧
  unpackAll (payloadOf (List.replicate 22 0xFF)) = List.replicate 16 2047 ∧
  (∀ n k, n < 176 → k < 16 →
    (unpackAll (BitVec.twoPow 176 n))[k]? = some (if k = n / 11 then BitVec.twoPow 11 (n % 11) else 0)) ∧
  (∀ p q : Payload, unpackAll (p ||| q) = List.zipWith (· ||| ·) (unpackAll p) (unpackAll q) ∧
    unpackAll (p &&& q) = List.zipWith (· &&& ·) (unpackAll p) (unpackAll q) ∧
    unpackAll (p ^^^ q) = List.zipWith (· ^^^ ·) (unpackAll p) (unpackAll q)) ∧
  (∀ half : List Byte, half.length = 11 →
    (unpackAll (payloadOf (half ++ half))).drop 8 = (unpackAll (payloadOf (half ++ half))).take 8)

/-- R35, R34: on a complete buffer MemRead(i, n) is the little-endian value of its bytes, P[8(i+n)-1 : 8i], and never
fails inside the buffer. -/
def Obligations.MemReadIsASliceOfThePayload : Prop :=
  ∀ (s : State) (p : Payload) (i n : Nat), s.payload = .ok p → i + n ≤ 22 →
    s.memRead i n = .ok (p.extractLsb' (8 * i) (8 * n)).toNat

/-- R56, R58: a channel value seen in a 16-bit container has bits [15:11] zero and its own bits below, and event kinds are
0, 1 and 2, never 3. -/
def Obligations.OutputFormatsHaveNoSpareValues : Prop :=
  (∀ c : Chan, (chanWord c).extractLsb' 11 5 = 0 ∧ (chanWord c).extractLsb' 0 11 = c) ∧
  (∀ e : Event, e.kind ≠ 3) ∧ (∀ a b, (Event.header a b).kind = 0 ∧ (Event.footer a b).kind = 2) ∧
  ∀ a b ch, (Event.channel a b ch).kind = 1
end

