-- ==== Sys2Proof/Laws/State.lean ====
section
/-! SUPPORT. One lemma per field per update of State, each true by rfl, so that no proof unfolds a record update. -/

namespace Sys2Proof.Machine

/-! ### finish -/

@[simp] theorem State.finish_st (s : State) (o : Output) : (s.finish o).st = s.st := rfl
@[simp] theorem State.finish_cnt (s : State) (o : Output) : (s.finish o).cnt = s.cnt := rfl
@[simp] theorem State.finish_buf (s : State) (o : Output) : (s.finish o).buf = s.buf := rfl
@[simp] theorem State.finish_hdr (s : State) (o : Output) : (s.finish o).hdr = s.hdr := rfl
@[simp] theorem State.finish_input (s : State) (o : Output) : (s.finish o).input = s.input.tail := rfl
@[simp] theorem State.finish_out (s : State) (o : Output) : (s.finish o).out = o := rfl
@[simp] theorem State.finish_draws (s : State) (o : Output) : (s.finish o).draws = s.draws := rfl

/-! ### recordHeader -/

@[simp] theorem State.recordHeader_st (s : State) : (s.recordHeader).st = s.st := rfl
@[simp] theorem State.recordHeader_cnt (s : State) : (s.recordHeader).cnt = s.cnt := rfl
@[simp] theorem State.recordHeader_buf (s : State) : (s.recordHeader).buf = s.buf := rfl
@[simp] theorem State.recordHeader_hdr (s : State) : (s.recordHeader).hdr = s.interval := rfl
@[simp] theorem State.recordHeader_input (s : State) : (s.recordHeader).input = s.input := rfl
@[simp] theorem State.recordHeader_out (s : State) : (s.recordHeader).out = s.out := rfl
@[simp] theorem State.recordHeader_draws (s : State) : (s.recordHeader).draws = s.draws := rfl

/-! ### goTo -/

@[simp] theorem State.goTo_st (s : State) (st : FrameState) : (s.goTo st).st = st := rfl
@[simp] theorem State.goTo_cnt (s : State) (st : FrameState) : (s.goTo st).cnt = s.cnt := rfl
@[simp] theorem State.goTo_buf (s : State) (st : FrameState) : (s.goTo st).buf = s.buf := rfl
@[simp] theorem State.goTo_hdr (s : State) (st : FrameState) : (s.goTo st).hdr = s.hdr := rfl
@[simp] theorem State.goTo_input (s : State) (st : FrameState) : (s.goTo st).input = s.input := rfl
@[simp] theorem State.goTo_out (s : State) (st : FrameState) : (s.goTo st).out = s.out := rfl
@[simp] theorem State.goTo_draws (s : State) (st : FrameState) : (s.goTo st).draws = s.draws := rfl

/-! ### resync -/

@[simp] theorem State.resync_st (s : State) : (s.resync).st = .awaitingHeader := rfl
@[simp] theorem State.resync_cnt (s : State) : (s.resync).cnt = 0 := rfl
@[simp] theorem State.resync_buf (s : State) : (s.resync).buf = s.buf := rfl
@[simp] theorem State.resync_hdr (s : State) : (s.resync).hdr = s.hdr := rfl
@[simp] theorem State.resync_input (s : State) : (s.resync).input = s.input := rfl
@[simp] theorem State.resync_out (s : State) : (s.resync).out = s.out := rfl
@[simp] theorem State.resync_draws (s : State) : (s.resync).draws = s.draws := rfl

/-! ### afterReset -/

@[simp] theorem State.afterReset_st (s : State) : (s.afterReset).st = .awaitingHeader := rfl
@[simp] theorem State.afterReset_cnt (s : State) : (s.afterReset).cnt = 0 := rfl
@[simp] theorem State.afterReset_buf (s : State) : (s.afterReset).buf = [] := rfl
@[simp] theorem State.afterReset_hdr (s : State) : (s.afterReset).hdr = Config.freeInterval s.draws := rfl
@[simp] theorem State.afterReset_input (s : State) : (s.afterReset).input = s.input := rfl
@[simp] theorem State.afterReset_out (s : State) : (s.afterReset).out = s.out := rfl
@[simp] theorem State.afterReset_draws (s : State) : (s.afterReset).draws = s.draws + 1 := rfl

/-! ### drive -/

@[simp] theorem State.drive_st (s : State) (l : List (Nat × Chan)) : (s.drive l).st = s.st := rfl
@[simp] theorem State.drive_cnt (s : State) (l : List (Nat × Chan)) : (s.drive l).cnt = s.cnt := rfl
@[simp] theorem State.drive_buf (s : State) (l : List (Nat × Chan)) : (s.drive l).buf = s.buf := rfl
@[simp] theorem State.drive_hdr (s : State) (l : List (Nat × Chan)) : (s.drive l).hdr = s.hdr := rfl
@[simp] theorem State.drive_input (s : State) (l : List (Nat × Chan)) : (s.drive l).input = s.input := rfl
@[simp] theorem State.drive_out (s : State) (l : List (Nat × Chan)) : (s.drive l).out = ⟨[], l⟩ := rfl
@[simp] theorem State.drive_draws (s : State) (l : List (Nat × Chan)) : (s.drive l).draws = s.draws := rfl

/-! ### present -/

@[simp] theorem State.present_st (s : State) (c : PortCycle) : (s.present c).st = s.st := rfl
@[simp] theorem State.present_cnt (s : State) (c : PortCycle) : (s.present c).cnt = s.cnt := rfl
@[simp] theorem State.present_buf (s : State) (c : PortCycle) : (s.present c).buf = s.buf := rfl
@[simp] theorem State.present_hdr (s : State) (c : PortCycle) : (s.present c).hdr = s.hdr := rfl
@[simp] theorem State.present_input (s : State) (c : PortCycle) : (s.present c).input = c :: s.input := rfl
@[simp] theorem State.present_out (s : State) (c : PortCycle) : (s.present c).out = s.out := rfl
@[simp] theorem State.present_draws (s : State) (c : PortCycle) : (s.present c).draws = s.draws := rfl

/-! ### feed -/

@[simp] theorem State.feed_st (s : State) (xs : List RawByte) : (s.feed xs).st = s.st := rfl
@[simp] theorem State.feed_cnt (s : State) (xs : List RawByte) : (s.feed xs).cnt = s.cnt := rfl
@[simp] theorem State.feed_buf (s : State) (xs : List RawByte) : (s.feed xs).buf = s.buf := rfl
@[simp] theorem State.feed_hdr (s : State) (xs : List RawByte) : (s.feed xs).hdr = s.hdr := rfl
@[simp] theorem State.feed_input (s : State) (xs : List RawByte) : (s.feed xs).input = xs.map PortCycle.ofByte := rfl
@[simp] theorem State.feed_out (s : State) (xs : List RawByte) : (s.feed xs).out = s.out := rfl
@[simp] theorem State.feed_draws (s : State) (xs : List RawByte) : (s.feed xs).draws = s.draws := rfl

end Sys2Proof.Machine
end

