-- ==== Sys2Proof/Laws/Fetch.lean ====
section
/-! SUPPORT. What a clock edge performs: the decoding procedure in terms of the state and the presented cycle, and the
guards of the meanings. -/

namespace Sys2Proof.Machine

theorem selState_selWord (st : FrameState) (l : Bool) (b : Byte) : selState (selWord st l b) = st := by
  have h : (selWord st l b).extractLsb' 9 2 = st.code := by
    unfold selWord
    apply BitVec.eq_of_getLsbD_eq
    intro i hi
    simp only [BitVec.getLsbD_extractLsb', BitVec.getLsbD_append, BitVec.getLsbD_ofBool]
    have h1 : ¬ (9 + i < 8) := by omega
    have h2 : ¬ (9 + i - 8 < 1) := by omega
    have h3 : 9 + i - 8 - 1 = i := by omega
    simp only [h1, h2, h3, if_false, decide_eq_true hi, Bool.true_and]
  rw [selState, h]
  cases st <;> rfl

theorem selLast_selWord (st : FrameState) (l : Bool) (b : Byte) : selLast (selWord st l b) = l := by
  simp only [selLast, selWord, BitVec.getLsbD_append, BitVec.getLsbD_ofBool]
  simp

theorem selByte_selWord (st : FrameState) (l : Bool) (b : Byte) : selByte (selWord st l b) = b := by
  apply BitVec.eq_of_getLsbD_eq
  intro i hi
  simp only [selByte, selWord, BitVec.getLsbD_extractLsb', BitVec.getLsbD_append, BitVec.getLsbD_ofBool]
  simp [hi]

/-- The selection word names the operation R66 selects. -/
theorem decodeSel_selWord (st : FrameState) (l : Bool) (b : Byte) : decodeSel (selWord st l b) = selectOp st l b := by
  rw [decodeSel, selState_selWord, selLast_selWord, selByte_selWord]

theorem decodeControl_controlWord (r v : Bool) :
    decodeControl (controlWord r v) = if r then .reset else if v then .accept else .idle := by
  cases r <;> cases v <;> rfl

/-- The decoding procedure R66 in terms of the ports and the state. -/
theorem fetch_eq (s : State) :
    s.fetch = if s.port.rst then .reset else if s.port.inValid then
      (selectOp s.st s.last s.port.byte).toInstr else .idle := by
  rw [State.fetch, State.control, decodeControl_controlWord, State.sel, decodeSel_selWord]
  cases s.port.rst <;> cases s.port.inValid <;> rfl

theorem fetch_of_presents {s : State} (h : s.presents = true) :
    s.fetch = (selectOp s.st s.last s.port.byte).toInstr := by
  simp only [State.presents, Bool.and_eq_true, Bool.not_eq_true'] at h
  simp [fetch_eq, h.1, h.2]

theorem port_of_cons {s : State} {c : PortCycle} {rest : List PortCycle} (h : s.input = c :: rest) : s.port = c := by
  simp [State.port, h]

theorem port_of_nil {s : State} (h : s.input = []) : s.port = PortCycle.quiet := by
  simp [State.port, h]

theorem presents_of_cons {s : State} {x : RawByte} {rest : List PortCycle} (h : s.input = PortCycle.ofByte x :: rest) :
    s.presents = true := by
  simp [State.presents, port_of_cons h, PortCycle.ofByte]

/-! ### The operation selected, row by row (R61) -/

theorem fetch_hdrSync {s : State} (hp : s.presents = true) (hst : s.st = .awaitingHeader) (hb : s.port.byte = 0x0F#8) :
    s.fetch = .hdrSync := by
  rw [fetch_of_presents hp, hst, selectOp, if_pos hb]; rfl

theorem fetch_hdrSkip {s : State} (hp : s.presents = true) (hst : s.st = .awaitingHeader) (hb : s.port.byte ≠ 0x0F#8) :
    s.fetch = .hdrSkip s.port.byte := by
  rw [fetch_of_presents hp, hst, selectOp, if_neg hb]; rfl

theorem fetch_collect {s : State} (hp : s.presents = true) (hst : s.st = .collectingChannels) (hl : s.last = false) :
    s.fetch = .collect s.port.byte := by
  rw [fetch_of_presents hp, hst, hl]; rfl

theorem fetch_collectLast {s : State} (hp : s.presents = true) (hst : s.st = .collectingChannels)
    (hl : s.last = true) : s.fetch = .collectLast s.port.byte := by
  rw [fetch_of_presents hp, hst, hl]; rfl

theorem fetch_extras {s : State} (hp : s.presents = true) (hst : s.st = .awaitingExtras) :
    s.fetch = .extras s.port.byte := by
  rw [fetch_of_presents hp, hst]; rfl

theorem fetch_ftrSync {s : State} (hp : s.presents = true) (hst : s.st = .awaitingFooter) (hb : s.port.byte = 0x00#8) :
    s.fetch = .ftrSync := by
  rw [fetch_of_presents hp, hst, selectOp, if_pos hb]; rfl

theorem fetch_ftrDrop {s : State} (hp : s.presents = true) (hst : s.st = .awaitingFooter) (hb : s.port.byte ≠ 0x00#8) :
    s.fetch = .ftrDrop s.port.byte := by
  rw [fetch_of_presents hp, hst, selectOp, if_neg hb]; rfl

theorem last_of_cnt_ne {s : State} (h : s.cnt.toNat ≠ 21) : s.last = false := by
  have : s.cnt ≠ 21 := fun he => h (by rw [he]; rfl)
  simpa [State.last] using this

/-! ### Guards -/

/-- What a guarded operation answers. -/
theorem whenSelected_next {s t : State} {i : Instr} {a : Answer} (h : s.whenSelected i a = .next t) :
    s.fetch = i ∧ a = .next t := by
  unfold State.whenSelected at h
  split at h
  · exact ⟨‹_›, h⟩
  · cases h

theorem whenSelected_eq {s : State} {i : Instr} (a : Answer) (h : s.fetch = i) : s.whenSelected i a = a := by
  simp [State.whenSelected, h]

/-- What an operation on an accepted byte answers. -/
theorem onByte_next {s t : State} {i : Instr} {a : Answer} (h : s.onByte i a = .next t) :
    s.fetch = i ∧ s.legal = true ∧ a = .next t := by
  obtain ⟨hf, h⟩ := whenSelected_next h
  split at h
  · exact ⟨hf, ‹_›, h⟩
  · cases h

theorem onByte_eq {s : State} {i : Instr} (a : Answer) (h : s.fetch = i) (hl : s.legal = true) : s.onByte i a = a := by
  simp [State.onByte, State.whenSelected, h, hl]

theorem orFault_next {α : Type} {r : Except Fault α} {k : α → Answer} {t : State} (h : orFault r k = .next t) :
    ∃ a, r = .ok a ∧ k a = .next t := by
  cases r with
  | error f => cases h
  | ok a => exact ⟨a, rfl, h⟩

@[simp] theorem orFault_ok {α : Type} (a : α) (k : α → Answer) : orFault (.ok a) k = k a := rfl

/-- ACCEPT is the operation the selection word names, whenever a byte is presented (R62, R67). -/
theorem execAccept_eq {s : State} (h : s.presents = true) : execAccept s = exec s.fetch s := by
  rw [fetch_of_presents h, execAccept, if_pos h, State.sel, decodeSel_selWord]
  cases selectOp s.st s.last s.port.byte <;> rfl

end Sys2Proof.Machine
end

