-- ==== Sys2Proof/Laws/Memory.lean ====
section
/-! SUPPORT. The ChannelBuffer as memory: a read after a write, and every memory operation keeps the canonical form. -/

namespace Sys2Proof.Machine

@[simp] theorem Memory.read_nil (i : Nat) : Memory.read [] i = none := rfl

theorem Memory.read_cons (a : Nat) (b : Byte) (m : Memory) (i : Nat) :
    Memory.read ((a, b) :: m) i = if a = i then some b else Memory.read m i := rfl

/-- Below the least listed index nothing is listed. -/
theorem Memory.read_eq_none_of_risingFrom {lo i : Nat} {m : Memory} (h : Memory.risingFrom lo m = true) (hi : i < lo) :
    Memory.read m i = none := by
  induction m generalizing lo with
  | nil => rfl
  | cons c m ih =>
    obtain ⟨a, b⟩ := c
    simp only [Memory.risingFrom, Bool.and_eq_true, decide_eq_true_eq] at h
    rw [Memory.read_cons, if_neg (by omega)]
    exact ih h.2 (by omega)

theorem Memory.read_write_same (m : Memory) (i : Nat) (v : Byte) : (m.write i v).read i = some v := by
  induction m with
  | nil => simp [Memory.write, Memory.read]
  | cons c m ih =>
    obtain ⟨a, b⟩ := c
    simp only [Memory.write]
    split
    · simp [Memory.read]
    · split
      · simp [Memory.read]
      · simp only [Memory.read_cons]
        rw [if_neg (by omega)]
        exact ih

theorem Memory.read_write_other (m : Memory) {i j : Nat} (v : Byte) (h : j ≠ i) :
    (m.write i v).read j = m.read j := by
  induction m with
  | nil => simp [Memory.write, Memory.read, Ne.symm h]
  | cons c m ih =>
    obtain ⟨a, b⟩ := c
    simp only [Memory.write]
    split
    · rw [Memory.read_cons, if_neg (Ne.symm h)]
    · split
      · next h2 => subst h2; simp [Memory.read_cons, Ne.symm h]
      · simp only [Memory.read_cons, ih]

/-- A write keeps the order, from any bound at or below the index written. -/
theorem Memory.risingFrom_write {lo i : Nat} {m : Memory} (v : Byte) (h : Memory.risingFrom lo m = true)
    (hlo : lo ≤ i) (hi : i < Config.channelsBytes) : Memory.risingFrom lo (m.write i v) = true := by
  induction m generalizing lo with
  | nil => simp [Memory.write, Memory.risingFrom, hlo, show i < 22 from hi]
  | cons c m ih =>
    obtain ⟨a, b⟩ := c
    simp only [Memory.risingFrom, Bool.and_eq_true, decide_eq_true_eq] at h
    simp only [Memory.write]
    split
    · simp only [Memory.risingFrom, Bool.and_eq_true, decide_eq_true_eq]
      exact ⟨⟨hlo, hi⟩, ⟨by omega, h.1.2⟩, h.2⟩
    · split
      · next h2 =>
        subst h2
        simp only [Memory.risingFrom, Bool.and_eq_true, decide_eq_true_eq]
        exact ⟨⟨hlo, hi⟩, h.2⟩
      · simp only [Memory.risingFrom, Bool.and_eq_true, decide_eq_true_eq]
        exact ⟨h.1, ih h.2 (by omega)⟩

/-- A write inside 0..21 keeps the canonical form. -/
theorem Memory.wf_write {m : Memory} {i : Nat} (v : Byte) (h : m.wf = true) (hi : i < Config.channelsBytes) :
    (m.write i v).wf = true := Memory.risingFrom_write v h (Nat.zero_le i) hi

/-- Filling keeps the canonical form. -/
theorem Memory.wf_fill {m : Memory} (n : Nat) (h : m.wf = true) (hn : n ≤ Config.channelsBytes) :
    (m.fill n).wf = true := by
  induction n generalizing m with
  | zero => exact h
  | succ n ih =>
    simp only [Memory.fill]
    split
    · exact ih h (by omega)
    · exact ih (Memory.wf_write 0 h (by omega)) (by omega)

/-- The bytes of a payload, listed in order, are in canonical form. -/
theorem Memory.risingFrom_listBytes (i : Nat) (bs : List Byte) (h : i + bs.length ≤ Config.channelsBytes) :
    Memory.risingFrom i (listBytes i bs) = true := by
  induction bs generalizing i with
  | nil => rfl
  | cons b bs ih =>
    simp only [List.length_cons] at h
    simp only [listBytes, Memory.risingFrom, Bool.and_eq_true, decide_eq_true_eq]
    exact ⟨⟨le_refl i, by omega⟩, ih (i + 1) (by omega)⟩

/-- Reset's memory is in canonical form. -/
theorem Memory.wf_reset : State.reset.buf.wf = true := rfl

/-- Equal reads mean equal memories, between canonical forms: equal memories are equal data. -/
theorem Memory.ext_of_risingFrom {lo : Nat} {m n : Memory} (hm : Memory.risingFrom lo m = true)
    (hn : Memory.risingFrom lo n = true) (h : ∀ i, Memory.read m i = Memory.read n i) : m = n := by
  induction m generalizing lo n with
  | nil =>
    cases n with
    | nil => rfl
    | cons d n =>
      obtain ⟨a, b⟩ := d
      have := h a
      simp [Memory.read] at this
  | cons c m ih =>
    obtain ⟨a, b⟩ := c
    cases n with
    | nil =>
      have := h a
      simp [Memory.read] at this
    | cons d n =>
      obtain ⟨a', b'⟩ := d
      simp only [Memory.risingFrom, Bool.and_eq_true, decide_eq_true_eq] at hm hn
      have haa : a = a' := by
        rcases Nat.lt_trichotomy a a' with hlt | heq | hgt
        · have := h a
          rw [Memory.read_cons, Memory.read_cons, if_pos rfl, if_neg (by omega),
            Memory.read_eq_none_of_risingFrom hn.2 (by omega)] at this
          cases this
        · exact heq
        · have := h a'
          rw [Memory.read_cons, Memory.read_cons, if_neg (by omega), if_pos rfl,
            Memory.read_eq_none_of_risingFrom hm.2 (by omega)] at this
          cases this
      subst haa
      have hb : b = b' := by simpa [Memory.read] using h a
      subst hb
      rw [ih hm.2 hn.2 fun i => ?_]
      by_cases hi : a = i
      · subst hi
        rw [Memory.read_eq_none_of_risingFrom hm.2 (by omega), Memory.read_eq_none_of_risingFrom hn.2 (by omega)]
      · simpa [Memory.read_cons, hi] using h i

end Sys2Proof.Machine
end

