-- ==== Sys2Proof/Laws/Buffer.lean ====
section
/-! SUPPORT. The buffer's reads and its append, and the payload of a complete buffer. -/

namespace Sys2Proof.Machine

/-- What an append does when it answers: it stores at `cnt` and counts. -/
theorem append_ok {s t : State} {b : Byte} (h : s.append b = .ok t) :
    s.cnt.toNat < Config.channelsBytes ∧ t = { s with buf := s.buf.write s.cnt.toNat b, cnt := s.cnt + 1 } := by
  unfold State.append at h
  split at h
  · exact ⟨‹_›, by simpa using h.symm⟩
  · cases h

theorem append_eq {s : State} {b : Byte} (h : s.cnt.toNat < 22) :
    s.append b = .ok { s with buf := s.buf.write s.cnt.toNat b, cnt := s.cnt + 1 } := by
  simp [State.append, h]

theorem cnt_add_one {c : BitVec 5} (h : c.toNat < 22) : (c + 1).toNat = c.toNat + 1 := by
  simp [BitVec.toNat_add]; omega

theorem readByte_ok {s : State} {i : Nat} {b : Byte} (h22 : i < 22) (hc : i < s.cnt.toNat)
    (h : s.buf.read i = some b) : s.readByte i = .ok b := by
  simp [State.readByte, h, Nat.not_le.2 h22, Nat.not_le.2 hc]

/-- A run of readable bytes reads as the listed bytes. -/
theorem readBytes_eq {s : State} (i n : Nat)
    (h : ∀ j, j < n → s.readByte (i + j) = .ok ((s.buf.read (i + j)).getD 0)) :
    s.readBytes i n = .ok ((List.range n).map fun j => (s.buf.read (i + j)).getD 0) := by
  induction n generalizing i with
  | zero => rfl
  | succ n ih =>
    have h0 := h 0 (by omega)
    have hs : s.readBytes (i + 1) n = .ok ((List.range n).map fun j => (s.buf.read (i + 1 + j)).getD 0) := by
      apply ih
      intro j hj
      have := h (j + 1) (by omega)
      rwa [show i + 1 + j = i + (j + 1) by omega]
    rw [Nat.add_zero] at h0
    rw [State.readBytes, h0, hs]
    simp only [List.range_succ_eq_map, List.map_cons, List.map_map, Nat.add_zero]
    congr 2
    apply List.map_congr_left
    intro j _
    simp only [Function.comp]
    rw [show i + 1 + j = i + (j + 1) by omega]

theorem readByte_of_inv {s : State} (hs : s.Inv) {i : Nat} (h22 : i < 22) (hc : i < s.cnt.toNat) :
    s.readByte i = .ok ((s.buf.read i).getD 0) := by
  obtain ⟨b, hb⟩ := Option.isSome_iff_exists.1 (hs.2.2 i hc)
  rw [hb]
  exact readByte_ok h22 hc hb

/-- With the invariant, the complete buffer packs to the payload of its bytes. -/
theorem payload_of_inv {s : State} (hs : s.Inv) (hc : s.cnt = 22) : s.payload = .ok (payloadOf s.bytes) := by
  have hc' : s.cnt.toNat = 22 := by rw [hc]; rfl
  have h := readBytes_eq (s := s) 0 22 fun j hj => by
    rw [Nat.zero_add]
    exact readByte_of_inv hs hj (by omega)
  simp only [Nat.zero_add] at h
  simp [State.payload, State.bytes, hc', h, Except.map]

end Sys2Proof.Machine
end

