-- ==== Sys2Proof/Laws/PerInstr.lean ====
section
/-! SUPPORT. One fact per operation as syntax: its encoding lies in its own row of the opcode map, pattern, mask and
exception (30_encoding.md R61, R62). -/

namespace Sys2Proof.Laws.EncodesInRow

/-- The encoding of a well-formed operation has its row's format and matches its row. -/
def Statement (i : Instr) : Prop :=
  i.wf = true → (encode i).format = i.row.format ∧ i.row.applies (encode i).bits = true

theorem hdrSync : Statement .hdrSync := fun _ => by decide

theorem ftrSync : Statement .ftrSync := fun _ => by decide

theorem reset : Statement .reset := fun _ => by decide

theorem idle : Statement .idle := fun _ => by decide

theorem accept : Statement .accept := fun _ => by decide

theorem unpack (p : Payload) : Statement (.unpack p) := fun _ => ⟨rfl, by simp [Row.applies, Instr.row]⟩

theorem unpackCh0 (p : Payload) : Statement (.unpackCh0 p) := fun _ => ⟨rfl, by simp [Row.applies, Instr.row]⟩

theorem unpackCh1 (p : Payload) : Statement (.unpackCh1 p) := fun _ => ⟨rfl, by simp [Row.applies, Instr.row]⟩

theorem unpackCh2 (p : Payload) : Statement (.unpackCh2 p) := fun _ => ⟨rfl, by simp [Row.applies, Instr.row]⟩

theorem unpackCh3 (p : Payload) : Statement (.unpackCh3 p) := fun _ => ⟨rfl, by simp [Row.applies, Instr.row]⟩

theorem unpackCh4 (p : Payload) : Statement (.unpackCh4 p) := fun _ => ⟨rfl, by simp [Row.applies, Instr.row]⟩

theorem unpackCh5 (p : Payload) : Statement (.unpackCh5 p) := fun _ => ⟨rfl, by simp [Row.applies, Instr.row]⟩

theorem unpackCh6 (p : Payload) : Statement (.unpackCh6 p) := fun _ => ⟨rfl, by simp [Row.applies, Instr.row]⟩

theorem unpackCh7 (p : Payload) : Statement (.unpackCh7 p) := fun _ => ⟨rfl, by simp [Row.applies, Instr.row]⟩

theorem unpackCh8 (p : Payload) : Statement (.unpackCh8 p) := fun _ => ⟨rfl, by simp [Row.applies, Instr.row]⟩

theorem unpackCh9 (p : Payload) : Statement (.unpackCh9 p) := fun _ => ⟨rfl, by simp [Row.applies, Instr.row]⟩

theorem unpackCh10 (p : Payload) : Statement (.unpackCh10 p) := fun _ => ⟨rfl, by simp [Row.applies, Instr.row]⟩

theorem unpackCh11 (p : Payload) : Statement (.unpackCh11 p) := fun _ => ⟨rfl, by simp [Row.applies, Instr.row]⟩

theorem unpackCh12 (p : Payload) : Statement (.unpackCh12 p) := fun _ => ⟨rfl, by simp [Row.applies, Instr.row]⟩

theorem unpackCh13 (p : Payload) : Statement (.unpackCh13 p) := fun _ => ⟨rfl, by simp [Row.applies, Instr.row]⟩

theorem unpackCh14 (p : Payload) : Statement (.unpackCh14 p) := fun _ => ⟨rfl, by simp [Row.applies, Instr.row]⟩

theorem unpackCh15 (p : Payload) : Statement (.unpackCh15 p) := fun _ => ⟨rfl, by simp [Row.applies, Instr.row]⟩

theorem collect (b : Byte) : Statement (.collect b) := by
  revert b; unfold Statement; decide

theorem collectLast (b : Byte) : Statement (.collectLast b) := by
  revert b; unfold Statement; decide

theorem extras (b : Byte) : Statement (.extras b) := by
  revert b; unfold Statement; decide

theorem hdrSkip (b : Byte) : Statement (.hdrSkip b) := by
  revert b; unfold Statement; decide

theorem ftrDrop (b : Byte) : Statement (.ftrDrop b) := by
  revert b; unfold Statement; decide

end Sys2Proof.Laws.EncodesInRow
end

