-- ==== Sys2Proof/Laws/Step.lean ====
section
/-! SUPPORT. Everything a clock edge can do, said once: `Edge s t` lists the cases, `edge_of_step` inverts the step, and
`edge_of_exec` reduces every other way to run an operation to it. -/

namespace Sys2Proof.Machine

/-- The cases of a clock edge from `s` to `t` (the transition table R74, with RESET and IDLE). -/
inductive Edge (s : State) : State → Prop
  | reset (hr : s.port.rst = true) : Edge s (s.afterReset.finish .silent)
  | idle (hr : s.port.rst = false) (hv : s.port.inValid = false) : Edge s (s.finish .silent)
  | hdrSync (hp : s.presents = true) (hst : s.st = .awaitingHeader) (hc : s.cnt = 0) (hb : s.port.byte = 0x0F#8) :
      Edge s ((s.recordHeader.goTo .collectingChannels).finish .silent)
  | hdrSkip (hp : s.presents = true) (hst : s.st = .awaitingHeader) (hc : s.cnt = 0) (hb : s.port.byte ≠ 0x0F#8) :
      Edge s (s.finish .silent)
  | collect (hp : s.presents = true) (hst : s.st = .collectingChannels) (hc : s.cnt.toNat ≤ 20) (t : State)
      (ha : s.append s.port.byte = .ok t) : Edge s (t.finish .silent)
  | collectLast (hp : s.presents = true) (hst : s.st = .collectingChannels) (hc : s.cnt = 21) (t : State)
      (ha : s.append s.port.byte = .ok t) : Edge s ((t.goTo .awaitingExtras).finish .silent)
  | extras (hp : s.presents = true) (hst : s.st = .awaitingExtras) (hc : s.cnt = 22) :
      Edge s ((s.goTo .awaitingFooter).finish .silent)
  | ftrSync (hp : s.presents = true) (hst : s.st = .awaitingFooter) (hc : s.cnt = 22) (hb : s.port.byte = 0x00#8)
      (p : Payload) (hpl : s.payload = .ok p) :
      Edge s (s.resync.finish ⟨triple s.hdr s.interval p, allLanes p⟩)
  | ftrDrop (hp : s.presents = true) (hst : s.st = .awaitingFooter) (hc : s.cnt = 22) (hb : s.port.byte ≠ 0x00#8) :
      Edge s (s.resync.finish .silent)

theorem legal_awaitingHeader {s : State} (h : s.st = .awaitingHeader) (hl : s.legal = true) : s.cnt = 0 := by
  simpa [State.legal, h] using hl

theorem legal_collecting {s : State} (h : s.st = .collectingChannels) (hl : s.legal = true) : s.cnt.toNat < 22 := by
  simpa [State.legal, h] using hl

theorem legal_awaitingExtras {s : State} (h : s.st = .awaitingExtras) (hl : s.legal = true) : s.cnt = 22 := by
  simpa [State.legal, h] using hl

theorem legal_awaitingFooter {s : State} (h : s.st = .awaitingFooter) (hl : s.legal = true) : s.cnt = 22 := by
  simpa [State.legal, h] using hl

theorem last_eq_false {s : State} (h : s.last = false) (hc : s.cnt.toNat < 22) : s.cnt.toNat ≤ 20 := by
  have : s.cnt ≠ 21 := by simpa [State.last] using h
  have : s.cnt.toNat ≠ 21 := fun he => this (BitVec.eq_of_toNat_eq he)
  omega

/-- A step that answers is one of the edges. -/
theorem edge_of_step {s t : State} (h : step s = .next t) : Edge s t := by
  unfold step at h
  cases hr : s.port.rst with
  | true =>
    have hf : s.fetch = .reset := by simp [fetch_eq, hr]
    rw [hf] at h
    obtain ⟨-, ha⟩ := whenSelected_next h
    cases ha
    exact .reset hr
  | false =>
    cases hv : s.port.inValid with
    | false =>
      have hf : s.fetch = .idle := by simp [fetch_eq, hr, hv]
      rw [hf] at h
      obtain ⟨-, ha⟩ := whenSelected_next h
      cases ha
      exact .idle hr hv
    | true =>
      have hp : s.presents = true := by simp [State.presents, hr, hv]
      have hf := fetch_of_presents hp
      cases hst : s.st with
      | awaitingHeader =>
        by_cases hb : s.port.byte = 0x0F#8
        · rw [hf, hst, selectOp, if_pos hb] at h
          obtain ⟨-, hl, ha⟩ := onByte_next h
          cases ha
          exact .hdrSync hp hst (legal_awaitingHeader hst hl) hb
        · rw [hf, hst, selectOp, if_neg hb] at h
          obtain ⟨-, hl, ha⟩ := onByte_next h
          cases ha
          exact .hdrSkip hp hst (legal_awaitingHeader hst hl) hb
      | collectingChannels =>
        cases hlast : s.last with
        | true =>
          rw [hf, hst, selectOp, hlast, if_pos rfl] at h
          obtain ⟨-, hl, ha⟩ := onByte_next h
          obtain ⟨u, hu, ha⟩ := orFault_next ha
          cases ha
          exact .collectLast hp hst (by simpa [State.last] using hlast) u hu
        | false =>
          rw [hf, hst, selectOp, hlast, if_neg (by simp)] at h
          obtain ⟨-, hl, ha⟩ := onByte_next h
          obtain ⟨u, hu, ha⟩ := orFault_next ha
          cases ha
          exact .collect hp hst (last_eq_false hlast (legal_collecting hst hl)) u hu
      | awaitingExtras =>
        rw [hf, hst, selectOp] at h
        obtain ⟨-, hl, ha⟩ := onByte_next h
        cases ha
        exact .extras hp hst (legal_awaitingExtras hst hl)
      | awaitingFooter =>
        by_cases hb : s.port.byte = 0x00#8
        · rw [hf, hst, selectOp, if_pos hb] at h
          obtain ⟨-, hl, ha⟩ := onByte_next h
          obtain ⟨p, hpl, ha⟩ := orFault_next ha
          cases ha
          exact .ftrSync hp hst (legal_awaitingFooter hst hl) hb p hpl
        · rw [hf, hst, selectOp, if_neg hb] at h
          obtain ⟨-, hl, ha⟩ := onByte_next h
          cases ha
          exact .ftrDrop hp hst (legal_awaitingFooter hst hl) hb

/-- Running any operation is a clock edge, of the operation the state selects, or drives lanes and nothing else. -/
theorem edge_of_exec {i : Instr} {s t : State} (h : exec i s = .next t) :
    (step s = .next t ∧ (i = s.fetch ∨ (i = .accept ∧ s.presents = true))) ∨ (∃ l, t = s.drive l) := by
  have hsel : ∀ {a : Answer}, s.whenSelected i a = .next t → exec i s = .next t → i = s.fetch :=
    fun ha _ => (whenSelected_next ha).1.symm
  have hstep : i = s.fetch → step s = .next t := fun hi => by rw [step, ← hi, h]
  cases i with
  | hdrSync => exact .inl ⟨hstep (hsel h h), .inl (hsel h h)⟩
  | hdrSkip b => exact .inl ⟨hstep (hsel h h), .inl (hsel h h)⟩
  | collect b => exact .inl ⟨hstep (hsel h h), .inl (hsel h h)⟩
  | collectLast b => exact .inl ⟨hstep (hsel h h), .inl (hsel h h)⟩
  | extras b => exact .inl ⟨hstep (hsel h h), .inl (hsel h h)⟩
  | ftrSync => exact .inl ⟨hstep (hsel h h), .inl (hsel h h)⟩
  | ftrDrop b => exact .inl ⟨hstep (hsel h h), .inl (hsel h h)⟩
  | reset => exact .inl ⟨hstep (hsel h h), .inl (hsel h h)⟩
  | idle => exact .inl ⟨hstep (hsel h h), .inl (hsel h h)⟩
  | accept =>
    cases hp : s.presents with
    | true => exact .inl ⟨by rw [step, ← execAccept_eq hp]; exact h, .inr ⟨rfl, rfl⟩⟩
    | false =>
      have : execAccept s = .refused .notSelected := by simp [execAccept, hp]
      rw [show exec .accept s = execAccept s from rfl, this] at h
      cases h
  | unpack p | unpackCh0 p | unpackCh1 p | unpackCh2 p | unpackCh3 p | unpackCh4 p | unpackCh5 p | unpackCh6 p
  | unpackCh7 p | unpackCh8 p | unpackCh9 p | unpackCh10 p | unpackCh11 p | unpackCh12 p | unpackCh13 p
  | unpackCh14 p | unpackCh15 p => cases h; exact .inr ⟨_, rfl⟩

/-- The operation performed, seen from `fetch`. -/
theorem performed_eq_fetch {i : Instr} {s : State} (h : i = s.fetch ∨ (i = .accept ∧ s.presents = true)) :
    (if i = .accept then s.fetch else i) = s.fetch := by
  rcases h with h | h
  · split
    · rfl
    · exact h
  · simp [h.1]

/-- An operation that answers without being a clock edge is one of the BitUnpacker's. -/
theorem format_of_no_edge {i : Instr} {s t : State} (h : exec i s = .next t)
    (hn : ¬(step s = .next t ∧ (i = s.fetch ∨ (i = .accept ∧ s.presents = true)))) : i.row.format = .p := by
  have hsel : ∀ {j : Instr} {a : Answer}, i = j → exec j s = s.whenSelected j a → False := by
    intro j a hij ha
    subst hij
    rw [ha] at h
    have hf := (whenSelected_next h).1
    exact hn ⟨by rw [step, hf, ha]; exact h, .inl hf.symm⟩
  cases i with
  | hdrSync => exact (hsel rfl rfl).elim
  | hdrSkip b => exact (hsel rfl rfl).elim
  | collect b => exact (hsel rfl rfl).elim
  | collectLast b => exact (hsel rfl rfl).elim
  | extras b => exact (hsel rfl rfl).elim
  | ftrSync => exact (hsel rfl rfl).elim
  | ftrDrop b => exact (hsel rfl rfl).elim
  | reset => exact (hsel rfl rfl).elim
  | idle => exact (hsel rfl rfl).elim
  | accept =>
    rcases edge_of_exec h with h1 | ⟨l, hl⟩
    · exact (hn h1).elim
    · cases hp : s.presents with
      | true => exact (hn ⟨by rw [step, ← execAccept_eq hp]; exact h, .inr ⟨rfl, hp⟩⟩).elim
      | false =>
        have hr : execAccept s = .refused .notSelected := by simp [execAccept, hp]
        rw [show exec .accept s = execAccept s from rfl, hr] at h
        cases h
  | unpack p | unpackCh0 p | unpackCh1 p | unpackCh2 p | unpackCh3 p | unpackCh4 p | unpackCh5 p | unpackCh6 p
  | unpackCh7 p | unpackCh8 p | unpackCh9 p | unpackCh10 p | unpackCh11 p | unpackCh12 p | unpackCh13 p
  | unpackCh14 p | unpackCh15 p => rfl

/-- To show a fact of every operation that answers, show it of every clock edge, for the operation selected there, and
of driving lanes, for the operations of format P. -/
theorem exec_ind {Q : Instr → State → State → Prop} (edge : ∀ s t, Edge s t → Q s.fetch s t)
    (drive : ∀ i s l, i.row.format = .p → Q i s (s.drive l)) {i : Instr} {s t : State} (h : exec i s = .next t) :
    Q (if i = .accept then s.fetch else i) s t := by
  by_cases hn : step s = .next t ∧ (i = s.fetch ∨ (i = .accept ∧ s.presents = true))
  · rw [performed_eq_fetch hn.2]
    exact edge _ _ (edge_of_step hn.1)
  · have hf := format_of_no_edge h hn
    rcases edge_of_exec h with h1 | ⟨l, rfl⟩
    · exact (hn h1).elim
    · rw [if_neg (by rintro rfl; cases hf)]
      exact drive _ _ _ hf

/-! ### The edges, forward: when each happens -/

theorem step_reset {s : State} (hr : s.port.rst = true) : step s = .next (s.afterReset.finish .silent) := by
  have hf : s.fetch = .reset := by simp [fetch_eq, hr]
  rw [step, hf]
  exact whenSelected_eq _ hf

theorem step_idle {s : State} (hr : s.port.rst = false) (hv : s.port.inValid = false) :
    step s = .next (s.finish .silent) := by
  have hf : s.fetch = .idle := by simp [fetch_eq, hr, hv]
  rw [step, hf]
  exact whenSelected_eq _ hf

theorem step_hdrSync {s : State} (hp : s.presents = true) (hst : s.st = .awaitingHeader) (hc : s.cnt = 0)
    (hb : s.port.byte = 0x0F#8) : step s = .next ((s.recordHeader.goTo .collectingChannels).finish .silent) := by
  have hf := fetch_hdrSync hp hst hb
  rw [step, hf]
  exact onByte_eq _ hf (by simp [State.legal, hst, hc])

theorem step_hdrSkip {s : State} (hp : s.presents = true) (hst : s.st = .awaitingHeader) (hc : s.cnt = 0)
    (hb : s.port.byte ≠ 0x0F#8) : step s = .next (s.finish .silent) := by
  have hf := fetch_hdrSkip hp hst hb
  rw [step, hf]
  exact onByte_eq _ hf (by simp [State.legal, hst, hc])

theorem step_collect {s : State} (hp : s.presents = true) (hst : s.st = .collectingChannels)
    (hc : s.cnt.toNat ≤ 20) :
    step s = .next (State.finish
      { s with buf := s.buf.write s.cnt.toNat s.port.byte, cnt := s.cnt + 1 } .silent) := by
  have hf := fetch_collect hp hst (last_of_cnt_ne (by omega))
  rw [step, hf]
  refine (onByte_eq _ hf ?_).trans ?_
  · simp [State.legal, hst]; omega
  · rw [append_eq (by omega), orFault_ok]

theorem step_collectLast {s : State} (hp : s.presents = true) (hst : s.st = .collectingChannels) (hc : s.cnt = 21) :
    step s = .next (State.finish (State.goTo
      { s with buf := s.buf.write s.cnt.toNat s.port.byte, cnt := s.cnt + 1 } .awaitingExtras) .silent) := by
  have hf := fetch_collectLast hp hst (by simp [State.last, hc])
  rw [step, hf]
  refine (onByte_eq _ hf ?_).trans ?_
  · simp [State.legal, hst, hc]
  · rw [append_eq (by simp [hc]), orFault_ok]

theorem step_extras {s : State} (hp : s.presents = true) (hst : s.st = .awaitingExtras) (hc : s.cnt = 22) :
    step s = .next ((s.goTo .awaitingFooter).finish .silent) := by
  have hf := fetch_extras hp hst
  rw [step, hf]
  exact onByte_eq _ hf (by simp [State.legal, hst, hc])

theorem step_ftrSync {s : State} (hp : s.presents = true) (hst : s.st = .awaitingFooter) (hc : s.cnt = 22)
    (hb : s.port.byte = 0x00#8) {p : Payload} (hpl : s.payload = .ok p) :
    step s = .next (s.resync.finish ⟨triple s.hdr s.interval p, allLanes p⟩) := by
  have hf := fetch_ftrSync hp hst hb
  rw [step, hf]
  refine (onByte_eq _ hf (by simp [State.legal, hst, hc])).trans ?_
  rw [hpl, orFault_ok]

theorem step_ftrDrop {s : State} (hp : s.presents = true) (hst : s.st = .awaitingFooter) (hc : s.cnt = 22)
    (hb : s.port.byte ≠ 0x00#8) : step s = .next (s.resync.finish .silent) := by
  have hf := fetch_ftrDrop hp hst hb
  rw [step, hf]
  exact onByte_eq _ hf (by simp [State.legal, hst, hc])

/-- A run of one more step. -/
theorem run_succ {s t : State} (n : Nat) (h : step s = .next t) :
    run (n + 1) s = (run n t).map fun r => (r.1, t.out.events ++ r.2) := by
  simp [run, h]

end Sys2Proof.Machine
end

