-- ==== Sys2Proof/Laws/Unpack.lean ====
section
/-! SUPPORT. The byte-wise reads of a payload as numbers (20_memory.md R34, R35), and its bytes. -/

namespace Sys2Proof.Machine

theorem payloadByte_toNat (p : Payload) (j : Nat) : (payloadByte p j).toNat = p.toNat / 2 ^ (8 * j) % 256 := by
  simp [payloadByte, BitVec.extractLsb'_toNat, Nat.shiftRight_eq_div_pow]

/-- `MemRead(i, 2)` is 16 bits of P (R35). -/
theorem payloadRead_two (p : Payload) (i : Nat) : payloadRead p i 2 = p.toNat / 2 ^ (8 * i) % 2 ^ 16 := by
  have h : p.toNat / 2 ^ (8 * (i + 1)) = p.toNat / 2 ^ (8 * i) / 256 := by
    rw [Nat.div_div_eq_div_mul]; rw [show 8 * (i + 1) = 8 * i + 8 by omega, pow_add]; rfl
  simp only [payloadRead, List.range_succ, List.range_zero, List.nil_append, List.map_cons,
    List.map_nil, List.cons_append, leNat, payloadByte_toNat, Nat.add_zero, h]
  omega

/-- `MemRead(i, 3)` is 24 bits of P (R35). -/
theorem payloadRead_three (p : Payload) (i : Nat) : payloadRead p i 3 = p.toNat / 2 ^ (8 * i) % 2 ^ 24 := by
  have h : p.toNat / 2 ^ (8 * (i + 1)) = p.toNat / 2 ^ (8 * i) / 256 := by
    rw [Nat.div_div_eq_div_mul]; rw [show 8 * (i + 1) = 8 * i + 8 by omega, pow_add]; rfl
  have h2 : p.toNat / 2 ^ (8 * (i + 2)) = p.toNat / 2 ^ (8 * i) / 65536 := by
    rw [Nat.div_div_eq_div_mul]; rw [show 8 * (i + 2) = 8 * i + 16 by omega, pow_add]; rfl
  simp only [payloadRead, List.range_succ, List.range_zero, List.nil_append, List.map_cons,
    List.map_nil, List.cons_append, leNat, payloadByte_toNat, Nat.add_zero, h, h2]
  omega

/-- The slice form of a channel as a number (R86). -/
theorem channel_toNat (p : Payload) (k : Nat) : (channel p k).toNat = p.toNat / 2 ^ (11 * k) % 2048 := by
  simp [channel, BitVec.extractLsb'_toNat, Nat.shiftRight_eq_div_pow]

/-- Channel k of a buffer depends only on its sixteen bits of P and is below 2048 (R104). -/
theorem length_unpackAll (p : Payload) : (unpackAll p).length = 16 := by
  simp [unpackAll]

/-- A sequence of `n` bytes packs to less than `2^(8n)`. -/
theorem leNat_lt (bs : List Byte) : leNat bs < 256 ^ bs.length := by
  induction bs with
  | nil => simp [leNat]
  | cons b bs ih =>
    have := b.isLt
    rw [leNat, List.length_cons, pow_succ]
    omega

/-- Byte `j` of a byte sequence's number. -/
theorem leNat_byte (bs : List Byte) (j : Nat) (hj : j < bs.length) : leNat bs / 256 ^ j % 256 = (bs[j]).toNat := by
  induction bs generalizing j with
  | nil => simp at hj
  | cons b bs ih =>
    have hb := b.isLt
    cases j with
    | zero => simp [leNat]; omega
    | succ j =>
      have := ih j (by simpa using hj)
      rw [List.getElem_cons_succ, ← this, leNat, pow_succ', ← Nat.div_div_eq_div_mul]
      congr 2
      omega

end Sys2Proof.Machine
end

