-- ==== Sys2Proof/Tests/Slice0.lean ====
section
/-! SUPPORT. Small tests: the well-formedness smoke, words written out from 30_encoding.md, single steps from
95_test_vectors.md (their ids are named), and a witness for the hypotheses of every statement. -/

open Sys2Proof Sys2Proof.Machine

namespace Sys2Proof.Tests

/-! ### Well-formedness (the `except` column of R61) -/

theorem test_wf_refuses_header_marker_in_hdrSkip : (Instr.hdrSkip 0x0F).wf = false := by decide

theorem test_wf_refuses_footer_marker_in_ftrDrop : (Instr.ftrDrop 0x00).wf = false := by decide

/-! ### Decoding: words written out from R61 and R62; the selection words are those of 95_test_vectors.md section 3 -/

theorem test_decode_hdrSync : decode (.sel 0b00000001111) = .hdrSync := by decide

theorem test_decode_hdrSync_last_ignored : decode (.sel 0b00100001111) = .hdrSync := by decide

theorem test_decode_hdrSkip : decode (.sel 0b00011111111) = .hdrSkip 0xFF := by decide

theorem test_decode_hdrSkip_zero : decode (.sel 0b00000000000) = .hdrSkip 0x00 := by decide

theorem test_decode_collect : decode (.sel 0b01000001111) = .collect 0x0F := by decide

theorem test_decode_collect_ab : decode (.sel 0b01010101011) = .collect 0xAB := by decide

theorem test_decode_collectLast : decode (.sel 0b01110101011) = .collectLast 0xAB := by decide

theorem test_decode_collectLast_zero : decode (.sel 0b01100000000) = .collectLast 0x00 := by decide

theorem test_decode_extras : decode (.sel 0b10000001111) = .extras 0x0F := by decide

theorem test_decode_extras_last_ignored : decode (.sel 0b10100000000) = .extras 0x00 := by decide

theorem test_decode_ftrSync : decode (.sel 0b11000000000) = .ftrSync := by decide

theorem test_decode_ftrSync_last_ignored : decode (.sel 0b11100000000) = .ftrSync := by decide

theorem test_decode_ftrDrop : decode (.sel 0b11000001111) = .ftrDrop 0x0F := by decide

theorem test_decode_ftrDrop_one : decode (.sel 0b11000000001) = .ftrDrop 0x01 := by decide

theorem test_decode_reset : decode (.control 0b10) = .reset := by decide

theorem test_decode_reset_over_valid : decode (.control 0b11) = .reset := by decide

theorem test_decode_idle : decode (.control 0b00) = .idle := by decide

theorem test_decode_accept : decode (.control 0b01) = .accept := by decide

/-- The packed bytes of vector V3: 01 02 .. 16 (hexadecimal), buf[0] first, so the last byte is the most significant. -/
def v3 : Payload := 0x16151413121110_0F0E0D0C0B0A0908_07060504030201

theorem test_decode_unpack : decode (.payload .whole v3) = .unpack v3 := rfl

theorem test_decode_unpackCh0 : decode (.payload .ch0 v3) = .unpackCh0 v3 := rfl

theorem test_decode_unpackCh1 : decode (.payload .ch1 v3) = .unpackCh1 v3 := rfl

theorem test_decode_unpackCh2 : decode (.payload .ch2 v3) = .unpackCh2 v3 := rfl

theorem test_decode_unpackCh3 : decode (.payload .ch3 v3) = .unpackCh3 v3 := rfl

theorem test_decode_unpackCh4 : decode (.payload .ch4 v3) = .unpackCh4 v3 := rfl

theorem test_decode_unpackCh5 : decode (.payload .ch5 v3) = .unpackCh5 v3 := rfl

theorem test_decode_unpackCh6 : decode (.payload .ch6 v3) = .unpackCh6 v3 := rfl

theorem test_decode_unpackCh7 : decode (.payload .ch7 v3) = .unpackCh7 v3 := rfl

theorem test_decode_unpackCh8 : decode (.payload .ch8 v3) = .unpackCh8 v3 := rfl

theorem test_decode_unpackCh9 : decode (.payload .ch9 v3) = .unpackCh9 v3 := rfl

theorem test_decode_unpackCh10 : decode (.payload .ch10 v3) = .unpackCh10 v3 := rfl

theorem test_decode_unpackCh11 : decode (.payload .ch11 v3) = .unpackCh11 v3 := rfl

theorem test_decode_unpackCh12 : decode (.payload .ch12 v3) = .unpackCh12 v3 := rfl

theorem test_decode_unpackCh13 : decode (.payload .ch13 v3) = .unpackCh13 v3 := rfl

theorem test_decode_unpackCh14 : decode (.payload .ch14 v3) = .unpackCh14 v3 := rfl

theorem test_decode_unpackCh15 : decode (.payload .ch15 v3) = .unpackCh15 v3 := rfl

/-- The table's numbering: eleven bits in two bytes. -/
theorem test_tableWord_s : decodeTableWord 16 0x3AB = some (.collectLast 0xAB) := by decide

/-- The table's numbering: two bits in one byte. -/
theorem test_tableWord_c : decodeTableWord 8 0x1 = some .accept := by decide

/-- The table's numbering: 176 bits in 22 bytes. -/
theorem test_tableWord_p : decodeTableWord 176 v3.toNat = some (.unpack v3) := by decide

/-- Bits above the selection word's eleven are refused. -/
theorem test_tableWord_beyond : decodeTableWord 16 0x800 = none := by decide

/-! ### The helper state: `n` bytes 01, 02, .. held, header interval (100, 108) -/

def at_ (f : FrameState) (n : Nat) (xs : List PortCycle) : State where
  st := f
  cnt := BitVec.ofNat 5 n
  buf := listBytes 0 ((List.range n).map fun i => BitVec.ofNat 8 (i + 1))
  hdr := ⟨100, 108⟩
  input := xs
  out := .silent
  draws := 1

/-- One presented byte, at (240, 248). -/
def one (b : Byte) : List PortCycle := [.ofByte ⟨b, 240, 248⟩]

/-- What a test looks at: `st`, `cnt`, `hdr` and the events. -/
def see (a : Host.Outcome State Fault Refusal) : Option (FrameState × Nat × TimeInterval × List Event) :=
  match a with
  | .next t => some (t.st, t.cnt.toNat, t.hdr, t.out.events)
  | .fault _ => none
  | .refused _ => none

/-- The byte listed at an index of the state answered. -/
def byteAfter (a : Host.Outcome State Fault Refusal) (i : Nat) : Option Byte :=
  match a with
  | .next t => t.listed i
  | .fault _ => none
  | .refused _ => none

/-- The lanes of the state answered. -/
def lanesAfter (a : Host.Outcome State Fault Refusal) : List (Nat × Nat) :=
  match a with
  | .next t => t.out.lanes.map fun l => (l.1, l.2.toNat)
  | .fault _ => []
  | .refused _ => []

/-! ### Single steps -/

/-- T1, T4: the old interval is overwritten. -/
theorem test_hdrSync : see (exec .hdrSync (at_ .awaitingHeader 0 (one 0x0F))) =
    some (.collectingChannels, 0, ⟨240, 248⟩, []) := rfl

/-- T3: a near miss of the header marker. -/
theorem test_hdrSkip : see (exec (.hdrSkip 0x1F) (at_ .awaitingHeader 0 (one 0x1F))) =
    some (.awaitingHeader, 0, ⟨100, 108⟩, []) := rfl

/-- T6: the header's value is data. -/
theorem test_collect_marker : byteAfter (exec (.collect 0x0F) (at_ .collectingChannels 7 (one 0x0F))) 7 = some 0x0F := by
  decide

/-- T8: the last COLLECT of a cycle. -/
theorem test_collect_twentieth : see (exec (.collect 0x12) (at_ .collectingChannels 20 (one 0x12))) =
    some (.collectingChannels, 21, ⟨100, 108⟩, []) := rfl

/-- T9. -/
theorem test_collectLast : see (exec (.collectLast 0x34) (at_ .collectingChannels 21 (one 0x34))) =
    some (.awaitingExtras, 22, ⟨100, 108⟩, []) := rfl

/-- T9: the byte lands at index 21. -/
theorem test_collectLast_byte : byteAfter (exec (.collectLast 0x34) (at_ .collectingChannels 21 (one 0x34))) 21 =
    some 0x34 := by decide

/-- T10: even the header's value. -/
theorem test_extras : see (exec (.extras 0x0F) (at_ .awaitingExtras 22 (one 0x0F))) =
    some (.awaitingFooter, 22, ⟨100, 108⟩, []) := rfl

/-- T11 with the buffer of V3. -/
theorem test_ftrSync : see (exec .ftrSync (at_ .awaitingFooter 22 (one 0x00))) =
    some (.awaitingHeader, 0, ⟨100, 108⟩,
      [.header 100 108,
       .channel 108 240 [513, 96, 1040, 770, 112, 528, 642, 88, 1292, 449, 60, 136, 289, 38, 1349, 176],
       .footer 240 248]) := rfl

/-- T13: a header byte in the footer's place is dropped with the cycle. -/
theorem test_ftrDrop : see (exec (.ftrDrop 0x0F) (at_ .awaitingFooter 22 (one 0x0F))) =
    some (.awaitingHeader, 0, ⟨100, 108⟩, []) := rfl

/-- T17: IDLE in mid-cycle. -/
theorem test_idle : see (exec .idle (at_ .collectingChannels 5 [])) =
    some (.collectingChannels, 5, ⟨100, 108⟩, []) := rfl

/-- T18 with both bits of the control word set: the presented byte is not accepted. -/
theorem test_reset : (match exec .reset (at_ .collectingChannels 5 [⟨true, true, 0x0F, 0, 8⟩]) with
    | .next t => (t.st, t.cnt.toNat, t.buf, t.out.events)
    | .fault _ => (.awaitingFooter, 31, [], [])
    | .refused _ => (.awaitingFooter, 31, [], [])) = (.awaitingHeader, 0, [], []) := rfl

/-- R62: ACCEPT performs the operation the selection word names (here T9's). -/
theorem test_accept : see (exec .accept (at_ .collectingChannels 21 (one 0x34))) =
    some (.awaitingExtras, 22, ⟨100, 108⟩, []) := rfl

/-- V3. -/
theorem test_unpack_v3 : lanesAfter (exec (.unpack v3) State.reset) =
    [(0, 513), (1, 96), (2, 1040), (3, 770), (4, 112), (5, 528), (6, 642), (7, 88), (8, 1292), (9, 449), (10, 60),
     (11, 136), (12, 289), (13, 38), (14, 1349), (15, 176)] := by decide

/-- V8: MIX. -/
def v8 : List Byte :=
  [0xE8, 0x83, 0xFE, 0x00, 0x00, 0x18, 0x80, 0xFF, 0x03, 0xA0, 0xAA, 0xAA, 0x22, 0x03, 0x32, 0x58, 0x02, 0x19, 0xFA,
   0x60, 0xE9, 0xF9]

/-- The channel values of V8. -/
def mix : List Chan := [1000, 2000, 3, 1024, 1, 2047, 0, 1365, 682, 100, 200, 300, 400, 500, 600, 1999]

theorem test_unpack_v8 : unpackAll (payloadOf v8) = mix := by decide

/-- S1: pack(MIX). -/
theorem test_pack_v8 : payloadBytes (pack mix) = v8 := by decide

theorem test_unpackCh0 : lanesAfter (exec (.unpackCh0 v3) State.reset) = [(0, 513)] ∧
    lanesAfter (exec (.unpackCh0 (payloadOf v8)) State.reset) = [(0, 1000)] := by decide

theorem test_unpackCh1 : lanesAfter (exec (.unpackCh1 v3) State.reset) = [(1, 96)] ∧
    lanesAfter (exec (.unpackCh1 (payloadOf v8)) State.reset) = [(1, 2000)] := by decide

theorem test_unpackCh2 : lanesAfter (exec (.unpackCh2 v3) State.reset) = [(2, 1040)] ∧
    lanesAfter (exec (.unpackCh2 (payloadOf v8)) State.reset) = [(2, 3)] := by decide

theorem test_unpackCh3 : lanesAfter (exec (.unpackCh3 v3) State.reset) = [(3, 770)] ∧
    lanesAfter (exec (.unpackCh3 (payloadOf v8)) State.reset) = [(3, 1024)] := by decide

theorem test_unpackCh4 : lanesAfter (exec (.unpackCh4 v3) State.reset) = [(4, 112)] ∧
    lanesAfter (exec (.unpackCh4 (payloadOf v8)) State.reset) = [(4, 1)] := by decide

theorem test_unpackCh5 : lanesAfter (exec (.unpackCh5 v3) State.reset) = [(5, 528)] ∧
    lanesAfter (exec (.unpackCh5 (payloadOf v8)) State.reset) = [(5, 2047)] := by decide

theorem test_unpackCh6 : lanesAfter (exec (.unpackCh6 v3) State.reset) = [(6, 642)] ∧
    lanesAfter (exec (.unpackCh6 (payloadOf v8)) State.reset) = [(6, 0)] := by decide

theorem test_unpackCh7 : lanesAfter (exec (.unpackCh7 v3) State.reset) = [(7, 88)] ∧
    lanesAfter (exec (.unpackCh7 (payloadOf v8)) State.reset) = [(7, 1365)] := by decide

theorem test_unpackCh8 : lanesAfter (exec (.unpackCh8 v3) State.reset) = [(8, 1292)] ∧
    lanesAfter (exec (.unpackCh8 (payloadOf v8)) State.reset) = [(8, 682)] := by decide

theorem test_unpackCh9 : lanesAfter (exec (.unpackCh9 v3) State.reset) = [(9, 449)] ∧
    lanesAfter (exec (.unpackCh9 (payloadOf v8)) State.reset) = [(9, 100)] := by decide

theorem test_unpackCh10 : lanesAfter (exec (.unpackCh10 v3) State.reset) = [(10, 60)] ∧
    lanesAfter (exec (.unpackCh10 (payloadOf v8)) State.reset) = [(10, 200)] := by decide

theorem test_unpackCh11 : lanesAfter (exec (.unpackCh11 v3) State.reset) = [(11, 136)] ∧
    lanesAfter (exec (.unpackCh11 (payloadOf v8)) State.reset) = [(11, 300)] := by decide

theorem test_unpackCh12 : lanesAfter (exec (.unpackCh12 v3) State.reset) = [(12, 289)] ∧
    lanesAfter (exec (.unpackCh12 (payloadOf v8)) State.reset) = [(12, 400)] := by decide

theorem test_unpackCh13 : lanesAfter (exec (.unpackCh13 v3) State.reset) = [(13, 38)] ∧
    lanesAfter (exec (.unpackCh13 (payloadOf v8)) State.reset) = [(13, 500)] := by decide

theorem test_unpackCh14 : lanesAfter (exec (.unpackCh14 v3) State.reset) = [(14, 1349)] ∧
    lanesAfter (exec (.unpackCh14 (payloadOf v8)) State.reset) = [(14, 600)] := by decide

theorem test_unpackCh15 : lanesAfter (exec (.unpackCh15 v3) State.reset) = [(15, 176)] ∧
    lanesAfter (exec (.unpackCh15 (payloadOf v8)) State.reset) = [(15, 1999)] := by decide

/-! ### Placing an instruction word -/

theorem test_place_s : (State.reset.withFetchWord 16 0x3AB).fetch = .collectLast 0xAB := by decide

theorem test_place_s_completes : (match step (State.reset.withFetchWord 16 0x3AB) with
    | .next t => t.st
    | .fault _ => .awaitingHeader
    | .refused _ => .awaitingHeader) = .awaitingExtras := rfl

theorem test_place_c : (State.reset.withFetchWord 8 0x2).fetch = .reset := by decide

/-- The BitUnpacker runs inside FTR_SYNC (R76). -/
theorem test_place_p : lanesAfter (step (State.reset.withFetchWord 176 v3.toNat)) =
    lanesAfter (exec (.unpack v3) State.reset) := by decide

/-! ### The model's stops -/

/-- R24: an unreachable combination. -/
theorem test_unreachable : step (at_ .awaitingHeader 3 (one 0x0F)) = .refused .unreachableState := rfl

/-- A read at `cnt` faults (R8, U4). -/
theorem test_unheld : (at_ .collectingChannels 3 []).readByte 3 = .error (.unheldByte 3) := rfl

/-- FTR_SYNC on a buffer that breaks INV5 faults. -/
theorem test_ftrSync_unheld : step { at_ .awaitingFooter 22 (one 0x00) with buf := [] } = .fault (.unheldByte 0) := rfl

/-! ### Witnesses: for every statement with hypotheses, a state and operands that meet all of them together, at the
boundary values of each clause -/

theorem inv_of {s : State} (hl : s.legal = true) (hw : s.buf.wf = true)
    (hb : (List.range s.cnt.toNat).all (fun i => (s.buf.read i).isSome) = true) : s.Inv :=
  ⟨hl, hw, fun i hi => List.all_eq_true.1 hb i (List.mem_range.2 hi)⟩

theorem inv_header (xs : List PortCycle) : (at_ .awaitingHeader 0 xs).Inv := inv_of rfl rfl rfl

theorem inv_collect0 (xs : List PortCycle) : (at_ .collectingChannels 0 xs).Inv := inv_of rfl rfl rfl

theorem inv_collect20 (xs : List PortCycle) : (at_ .collectingChannels 20 xs).Inv := inv_of rfl rfl rfl

theorem inv_collect21 (xs : List PortCycle) : (at_ .collectingChannels 21 xs).Inv := inv_of rfl rfl rfl

theorem inv_extras (xs : List PortCycle) : (at_ .awaitingExtras 22 xs).Inv := inv_of rfl rfl rfl

theorem inv_footer (xs : List PortCycle) : (at_ .awaitingFooter 22 xs).Inv := inv_of rfl rfl rfl

/-- The byte `b` at (240, 248). -/
def rb (b : Byte) : RawByte := ⟨b, 240, 248⟩

/-- Twenty-two bytes, the header's value among them. -/
def twentyTwo : List RawByte := List.replicate 22 (rb 0x0F)

theorem witness_DecodeOfEncodeIsIdentity : (Instr.hdrSkip 0x0E).wf = true ∧ (Instr.hdrSkip 0x10).wf = true ∧
    (Instr.ftrDrop 0x01).wf = true ∧ (Instr.ftrDrop 0xFF).wf = true ∧ (Instr.collect 0x0F).wf = true := by decide

theorem witness_EncodeOfDecodeKeepsTestedBits : selState 0x200 = .collectingChannels ∧
    selState 0x3FF = .collectingChannels ∧ selState 0x1FF ≠ .collectingChannels ∧
    selState 0x400 ≠ .collectingChannels := by decide

theorem witness_ByteLayoutRoundTrips : (∀ n ∈ [0, 3, 21, 23], n ≠ 1 ∧ n ≠ 2 ∧ n ≠ 22) ∧ 8 ≤ (0x08 : Byte).toNat ∧
    4 ≤ (0x04 : Byte).toNat := by decide

theorem witness_StepRunsTheSelectedOperation : (at_ .awaitingHeader 0 [⟨true, true, 0, 0, 0⟩]).port.rst = true ∧
    ((at_ .awaitingHeader 0 []).port.rst = false ∧ (at_ .awaitingHeader 0 []).port.inValid = false) ∧
    ((at_ .awaitingHeader 0 (one 0x0F)).port.rst = false ∧ (at_ .awaitingHeader 0 (one 0x0F)).port.inValid = true) := by
  decide

theorem witness_AcceptPerformsTheSelectedOperation : (at_ .awaitingHeader 0 (one 0x0F)).port.rst = false ∧
    (at_ .awaitingHeader 0 (one 0x0F)).port.inValid = true := by decide

theorem witness_HdrSkipChangesNothing : (at_ .awaitingHeader 0 (one 0x0E)).st = .awaitingHeader ∧
    (at_ .awaitingHeader 0 (one 0x0E)).cnt = 0 ∧ (rb 0x0E).byte ≠ 0x0F#8 ∧
    (at_ .awaitingHeader 0 (one 0x0E)).input = PortCycle.ofByte (rb 0x0E) :: [] := ⟨rfl, rfl, by decide, rfl⟩

theorem witness_HdrSyncRecordsTheHeader : (at_ .awaitingHeader 0 (one 0x0F)).st = .awaitingHeader ∧
    (at_ .awaitingHeader 0 (one 0x0F)).cnt = 0 ∧ (rb 0x0F).byte = 0x0F#8 ∧
    (at_ .awaitingHeader 0 (one 0x0F)).input = PortCycle.ofByte (rb 0x0F) :: [] := ⟨rfl, rfl, rfl, rfl⟩

/-- Both ends of the range of `cnt`. -/
theorem witness_CollectStoresTheByte : ∀ n ∈ [0, 20], (at_ .collectingChannels n (one 0x0F)).st = .collectingChannels ∧
    (at_ .collectingChannels n (one 0x0F)).cnt.toNat ≤ 20 ∧
    (at_ .collectingChannels n (one 0x0F)).input = PortCycle.ofByte (rb 0x0F) :: [] := 
  fun n hn => ⟨rfl, (show ∀ n ∈ [0, 20], (BitVec.ofNat 5 n).toNat ≤ 20 by decide) n hn, rfl⟩

theorem witness_CollectLastCompletesTheBuffer : (at_ .collectingChannels 21 (one 0x34)).st = .collectingChannels ∧
    (at_ .collectingChannels 21 (one 0x34)).cnt = 21 ∧
    (at_ .collectingChannels 21 (one 0x34)).input = PortCycle.ofByte (rb 0x34) :: [] := ⟨rfl, rfl, rfl⟩

theorem witness_ExtrasIsConsumedAndForgotten : (at_ .awaitingExtras 22 (one 0x0F)).st = .awaitingExtras ∧
    (at_ .awaitingExtras 22 (one 0x0F)).cnt = 22 ∧
    (at_ .awaitingExtras 22 (one 0x0F)).input = PortCycle.ofByte (rb 0x0F) :: [] := ⟨rfl, rfl, rfl⟩

/-- The first clause; test_ftrSync runs the second clause's premise. -/
theorem witness_FtrSyncEmitsTheFrame : (at_ .awaitingFooter 22 (one 0x00)).st = .awaitingFooter ∧
    (at_ .awaitingFooter 22 (one 0x00)).cnt = 22 ∧ (rb 0x00).byte = 0x00#8 ∧ (payloadBytes v3).length = 22 ∧
    (∀ i, i < 22 → (at_ .awaitingFooter 22 (one 0x00)).listed i = (payloadBytes v3)[i]?) ∧
    (at_ .awaitingFooter 22 (one 0x00)).input = PortCycle.ofByte (rb 0x00) :: [] := 
  ⟨rfl, rfl, rfl, rfl, by decide, rfl⟩

/-- The second clause, for both operations it names. -/
theorem witness_FtrSyncEmitsTheFrame_events : ∀ i ∈ [Instr.ftrSync, .accept],
    (match exec i (at_ .awaitingFooter 22 (one 0x00)) with
      | .next t => t.out.events.length
      | .fault _ => 0
      | .refused _ => 0) = 3 := by decide

theorem witness_FtrDropDropsTheCycle : ∀ b ∈ [0x01#8, 0x0F#8, 0xFF#8],
    (at_ .awaitingFooter 22 (one b)).st = .awaitingFooter ∧ (at_ .awaitingFooter 22 (one b)).cnt = 22 ∧
    (rb b).byte ≠ 0x00#8 ∧ (at_ .awaitingFooter 22 (one b)).input = PortCycle.ofByte (rb b) :: [] := 
  fun b hb => ⟨rfl, rfl, (show ∀ b ∈ [0x01#8, 0x0F#8, 0xFF#8], b ≠ 0x00#8 by decide) b hb, rfl⟩

/-- Nothing more to present, and a cycle presented idle. -/
theorem witness_IdleHoldsAllState : ∀ xs ∈ [[], [PortCycle.quiet]],
    (at_ .collectingChannels 20 xs).port.rst = false ∧ (at_ .collectingChannels 20 xs).port.inValid = false := by decide

/-- With and without a byte presented. -/
theorem witness_ResetRestartsFromAnyState : ∀ v ∈ [true, false],
    (at_ .awaitingExtras 22 [⟨true, v, 0x0F, 0, 8⟩]).input = (⟨true, v, 0x0F, 0, 8⟩ : PortCycle) :: [] ∧
    (⟨true, v, 0x0F, 0, 8⟩ : PortCycle).rst = true := fun _ _ => ⟨rfl, rfl⟩

theorem witness_AcceptRefinesTheDocument : (at_ .awaitingFooter 22 (one 0x00)).Inv ∧
    (at_ .awaitingFooter 22 (one 0x00)).input = PortCycle.ofByte (rb 0x00) :: [] := ⟨inv_footer _, rfl⟩

theorem witness_RunIsTheFoldOfAccept : (at_ .collectingChannels 21 []).Inv := inv_collect21 _

theorem witness_EveryStepKeepsInvariant : (at_ .collectingChannels 21 (one 0x34)).Inv ∧
    ∃ t, step (at_ .collectingChannels 21 (one 0x34)) = .next t := ⟨inv_collect21 _, _, rfl⟩

theorem witness_NoStepStopsUnderInvariant : (at_ .awaitingFooter 22 (one 0x00)).Inv := inv_footer _

/-- The two clauses, in combinations on each side of the reachable ones. -/
theorem witness_UnreachableCombinationIsRefused :
    (∀ p ∈ [(FrameState.awaitingHeader, 1), (.collectingChannels, 22), (.awaitingExtras, 21), (.awaitingFooter, 23)],
      (at_ p.1 p.2 (one 0x00)).legal = false ∧ (at_ p.1 p.2 (one 0x00)).port.rst = false ∧
      (at_ p.1 p.2 (one 0x00)).port.inValid = true) ∧
    ((at_ .awaitingHeader 31 [⟨true, false, 0, 0, 0⟩]).legal = false ∧
      (at_ .awaitingHeader 31 [⟨true, false, 0, 0, 0⟩]).port.rst = true) := by decide

theorem witness_UnselectedOperationIsRefused : Instr.ftrSync ≠ (at_ .awaitingHeader 0 (one 0x00)).fetch ∧
    Instr.ftrSync.row.format ≠ .p ∧
    (Instr.ftrSync = .accept → (at_ .awaitingHeader 0 (one 0x00)).presents = false) ∧
    Instr.accept ≠ (at_ .awaitingHeader 0 []).fetch ∧ Instr.accept.row.format ≠ .p ∧
    (at_ .awaitingHeader 0 []).presents = false := by decide

/-- One state for each case of the table. -/
theorem witness_TransitionTableIsComplete : (at_ .awaitingHeader 0 (one 0x0F)).Inv ∧
    (at_ .collectingChannels 20 (one 0x0F)).Inv ∧ (at_ .collectingChannels 21 (one 0x0F)).Inv ∧
    (at_ .awaitingExtras 22 (one 0x0F)).Inv ∧ (at_ .awaitingFooter 22 (one 0x00)).Inv ∧
    (at_ .awaitingFooter 22 (one 0x00)).input = PortCycle.ofByte (rb 0x00) :: [] :=
  ⟨inv_header _, inv_collect20 _, inv_collect21 _, inv_extras _, inv_footer _, rfl⟩

/-- Positions 0, 1, 22, 23 and 24. -/
theorem witness_PositionAdvancesByOne : ((at_ .awaitingHeader 0 (one 0x0F)).Inv ∧
    (at_ .collectingChannels 0 (one 0x0F)).Inv ∧ (at_ .collectingChannels 21 (one 0x0F)).Inv ∧
    (at_ .awaitingExtras 22 (one 0x0F)).Inv ∧ (at_ .awaitingFooter 22 (one 0x0F)).Inv) ∧
    [(at_ .awaitingHeader 0 (one 0x0F)).pos, (at_ .collectingChannels 0 (one 0x0F)).pos,
     (at_ .collectingChannels 21 (one 0x0F)).pos, (at_ .awaitingExtras 22 (one 0x0F)).pos,
     (at_ .awaitingFooter 22 (one 0x0F)).pos] = [0, 1, 22, 23, 24] ∧
    (at_ .awaitingFooter 22 (one 0x0F)).input = PortCycle.ofByte (rb 0x0F) :: [] :=
  ⟨⟨inv_header _, inv_collect0 _, inv_collect21 _, inv_extras _, inv_footer _⟩, by decide, rfl⟩

/-- Every operation answers somewhere: one state for each arm of the frame statements below. -/
theorem every_operation_answers :
    (∃ t, exec .hdrSync (at_ .awaitingHeader 0 (one 0x0F)) = .next t) ∧
    (∃ t, exec (.hdrSkip 0x00) (at_ .awaitingHeader 0 (one 0x00)) = .next t) ∧
    (∃ t, exec (.collect 0x0F) (at_ .collectingChannels 0 (one 0x0F)) = .next t) ∧
    (∃ t, exec (.collect 0x0F) (at_ .collectingChannels 20 (one 0x0F)) = .next t) ∧
    (∃ t, exec (.collectLast 0x0F) (at_ .collectingChannels 21 (one 0x0F)) = .next t) ∧
    (∃ t, exec (.extras 0x0F) (at_ .awaitingExtras 22 (one 0x0F)) = .next t) ∧
    (∃ t, exec .ftrSync (at_ .awaitingFooter 22 (one 0x00)) = .next t) ∧
    (∃ t, exec (.ftrDrop 0x0F) (at_ .awaitingFooter 22 (one 0x0F)) = .next t) ∧
    (∃ t, exec .idle (at_ .awaitingFooter 22 []) = .next t) ∧
    (∃ t, exec .accept (at_ .awaitingFooter 22 (one 0x00)) = .next t) ∧
    (∃ t, exec .reset (at_ .awaitingFooter 22 [⟨true, false, 0, 0, 0⟩]) = .next t) ∧
    (∃ t, exec (.unpack v3) (at_ .awaitingFooter 22 []) = .next t) ∧
    (∃ t, exec (.unpackCh13 v3) (at_ .awaitingFooter 22 []) = .next t) :=
  ⟨⟨_, rfl⟩, ⟨_, rfl⟩, ⟨_, rfl⟩, ⟨_, rfl⟩, ⟨_, rfl⟩, ⟨_, rfl⟩, ⟨_, rfl⟩, ⟨_, rfl⟩, ⟨_, rfl⟩, ⟨_, rfl⟩, ⟨_, rfl⟩,
   ⟨_, rfl⟩, ⟨_, rfl⟩⟩

theorem witness_CursorIsWrittenOnlyAsStated :
    ∃ t, exec (.collect 0x0F) (at_ .collectingChannels 20 (one 0x0F)) = .next t := every_operation_answers.2.2.2.1

theorem witness_HeaderIntervalIsWrittenOnlyByHdrSync :
    ∃ t, exec .hdrSync (at_ .awaitingHeader 0 (one 0x0F)) = .next t := every_operation_answers.1

theorem witness_BufferIsWrittenOnlyAtTheCursor :
    ∃ t, exec (.collectLast 0x0F) (at_ .collectingChannels 21 (one 0x0F)) = .next t :=
  every_operation_answers.2.2.2.2.1

theorem witness_FrameStateAndPortsAreWrittenOnlyAsStated :
    ∃ t, exec (.extras 0x0F) (at_ .awaitingExtras 22 (one 0x0F)) = .next t := every_operation_answers.2.2.2.2.2.1

/-- Different buffers and header intervals, everything that selects alike. -/
theorem witness_StoredDataNeverControls : (at_ .collectingChannels 20 (one 0x0F)).Inv ∧
    State.Inv { at_ .collectingChannels 20 (one 0x0F) with buf := (Memory.fill [] 20), hdr := ⟨0, 0⟩ } ∧
    Memory.fill [] 20 ≠ (at_ .collectingChannels 20 (one 0x0F)).buf :=
  ⟨inv_collect20 _, inv_of rfl rfl rfl, by decide⟩

theorem witness_EventsAreNoneOrOneTriple :
    ∃ t, exec .ftrSync (at_ .awaitingFooter 22 (one 0x00)) = .next t := every_operation_answers.2.2.2.2.2.2.1

/-- No channel byte, and all of them. -/
theorem witness_CollectedBytesAndHeaderAreHeld : (at_ .awaitingHeader 0 []).Inv ∧
    (at_ .awaitingHeader 0 []).atBoundary ∧ (rb 0x0F).byte = 0x0F#8 ∧ ([] : List RawByte).length ≤ 22 ∧
    twentyTwo.length ≤ 22 := ⟨inv_header _, ⟨rfl, rfl⟩, rfl, by decide, by decide⟩

/-- A good footer and a failing one. -/
theorem witness_OneCycleDecodesOneFrame : (at_ .awaitingHeader 0 []).Inv ∧ (at_ .awaitingHeader 0 []).atBoundary ∧
    (rb 0x0F).byte = 0x0F#8 ∧ twentyTwo.length = 22 ∧ (rb 0x00).byte = 0x00#8 ∧ (rb 0x0F).byte ≠ 0x00#8 :=
  ⟨inv_header _, ⟨rfl, rfl⟩, rfl, by decide, rfl, by decide⟩

theorem witness_FrameDeliversItsChannels : (at_ .awaitingHeader 0 []).Inv ∧ (at_ .awaitingHeader 0 []).atBoundary ∧
    (rb 0x0F).byte = 0x0F#8 ∧ (rb 0x00).byte = 0x00#8 ∧ mix.length = 16 ∧
    (v8.map rb).map RawByte.byte = payloadBytes (pack mix) :=
  ⟨inv_header _, ⟨rfl, rfl⟩, rfl, rfl, rfl, by decide⟩

/-- The failing footer is a header byte. -/
theorem witness_RecoveryAfterOneFailedFooter : (at_ .awaitingHeader 0 []).Inv ∧
    (at_ .awaitingHeader 0 []).atBoundary ∧ (rb 0x0F).byte = 0x0F#8 ∧ twentyTwo.length = 22 ∧
    (rb 0x0F).byte ≠ 0x00#8 ∧ (rb 0x00).byte = 0x00#8 :=
  ⟨inv_header _, ⟨rfl, rfl⟩, rfl, by decide, by decide, rfl⟩

theorem witness_NoHeaderByteNoEvent : (at_ .awaitingHeader 0 []).Inv ∧ (at_ .awaitingHeader 0 []).atBoundary ∧
    ∀ x ∈ [rb 0x00, rb 0x0E, rb 0x10, rb 0xFF], x.byte ≠ 0x0F#8 := ⟨inv_header _, ⟨rfl, rfl⟩, by decide⟩

theorem witness_RunEventsAreTriples : ∃ t ev, run 1 (at_ .awaitingFooter 22 (one 0x00)) = some (t, ev) ∧
    ev.length = 3 := ⟨_, _, rfl, rfl⟩

theorem witness_NoEventBeforeTheTwentyFifthByte : (at_ .awaitingHeader 0 []).Inv ∧
    (at_ .awaitingHeader 0 []).atBoundary ∧ (rb 0x0F :: twentyTwo ++ [rb 0x00]).length ≤ 24 :=
  ⟨inv_header _, ⟨rfl, rfl⟩, by decide⟩

/-- Position 24, one byte and none. -/
theorem witness_BoundaryIsReachedWithinOneCycle : (at_ .awaitingFooter 22 []).Inv ∧
    (at_ .awaitingFooter 22 []).st ≠ .awaitingHeader ∧ [rb 0x0F].length ≤ 25 - (at_ .awaitingFooter 22 []).pos ∧
    ([] : List RawByte).length ≤ 25 - (at_ .awaitingFooter 22 []).pos := ⟨inv_footer _, by decide, by decide, by decide⟩

/-- A boundary with 22 stale bytes, another with none and another header interval. -/
theorem witness_StaleStateIsUnobservable :
    State.Inv { at_ .awaitingFooter 22 (one 0x0F) with st := .awaitingHeader, cnt := 0 } ∧
    State.Inv { at_ .awaitingHeader 0 (one 0x0F) with hdr := ⟨0, 0⟩ } ∧
    State.phase { at_ .awaitingFooter 22 (one 0x0F) with st := .awaitingHeader, cnt := 0 } =
      State.phase { at_ .awaitingHeader 0 (one 0x0F) with hdr := ⟨0, 0⟩ } :=
  ⟨inv_of rfl rfl rfl, inv_of rfl rfl rfl, rfl⟩

theorem witness_BoundaryIsLikeReset : (at_ .awaitingHeader 0 (one 0x0F)).Inv ∧
    (at_ .awaitingHeader 0 (one 0x0F)).atBoundary := ⟨inv_header _, rfl, rfl⟩

/-- An input that has an idle cycle in it. -/
theorem witness_IdleCyclesChangeNothing : (at_ .collectingChannels 0 [.quiet, .ofByte (rb 0x0F)]).Inv ∧
    (at_ .collectingChannels 0 [.quiet, .ofByte (rb 0x0F)]).withoutIdle.input = one 0x0F := ⟨inv_collect0 _, rfl⟩

theorem witness_EndOfStreamHoldsForEver : (at_ .awaitingFooter 22 []).input = [] := rfl

theorem witness_TimestampsAreOnlyCopied : (at_ .awaitingFooter 22 (one 0x00)).port.rst = false ∧
    ∃ t, step (at_ .awaitingFooter 22 (one 0x00)) = .next t := ⟨rfl, _, rfl⟩

/-- Timestamps that meet the premise at both ends, whatever their width: all bytes but the last at time 0, the last from 0
to the greatest time. -/
theorem witness_OrderedStreamGivesOrderedTriple : (at_ .awaitingHeader 0 []).Inv ∧
    (at_ .awaitingHeader 0 []).atBoundary ∧ (⟨0x0F, 0, 0⟩ : RawByte).byte = 0x0F#8 ∧
    (List.replicate 22 (⟨0xAA, 0, 0⟩ : RawByte)).length = 22 ∧
    (⟨0x00, 0, BitVec.allOnes Config.tsWidth⟩ : RawByte).byte = 0x00#8 ∧
    ordered (cycleBytes ⟨0x0F, 0, 0⟩ (List.replicate 22 ⟨0xAA, 0, 0⟩) ⟨0xAA, 0, 0⟩
      ⟨0x00, 0, BitVec.allOnes Config.tsWidth⟩) :=
  ⟨inv_header _, ⟨rfl, rfl⟩, rfl, rfl, rfl, by simp [cycleBytes, ordered, List.replicate, BitVec.le_def]⟩

/-- A cycle with the triple and one without. -/
theorem witness_OutputPortCarriesTheTriple : (∃ t, step (at_ .awaitingFooter 22 (one 0x00)) = .next t) ∧
    (at_ .awaitingFooter 22 (one 0x00)).outPort.valid = true ∧
    (∃ t, step (at_ .awaitingFooter 22 (one 0x0F)) = .next t) ∧
    (at_ .awaitingFooter 22 (one 0x0F)).outPort.valid = false := ⟨⟨_, rfl⟩, by decide, ⟨_, rfl⟩, by decide⟩

theorem witness_ChannelBitsComeFromTheirBytes : v8.length = 22 ∧ (0 < 16 ∧ 0 < 11) ∧ 15 < 16 ∧ 10 < 11 := by decide

theorem witness_PackAndUnpackAreInverse : mix.length = 16 ∧ v8.length = 22 := by decide

theorem witness_UnpackCornerCases : (0 < 176 ∧ 0 < 16) ∧ (175 < 176 ∧ 15 < 16) ∧ (v8.take 11).length = 11 := by decide

/-- The whole buffer, and nothing of it at its end. -/
theorem witness_MemReadIsASliceOfThePayload : (at_ .awaitingFooter 22 []).payload = .ok v3 ∧ 0 + 22 ≤ 22 ∧ 22 + 0 ≤ 22 :=
  ⟨rfl, by decide⟩

end Sys2Proof.Tests
end

