-- ==== Sys2Proof/Proofs/Refinement.lean ====
section
/-! PROOFS. Family 00_scope.md: under the invariant of R23 every clock edge answers, keeps the invariant and does what
the document's `accept` does (R67); by induction over the stream, a run is the fold of `accept` (R10). -/

namespace Sys2Proof.Machine

/-! ### The bytes held and the document's state -/

@[simp] theorem State.length_bytes (s : State) : s.bytes.length = s.cnt.toNat := by
  simp [State.bytes]

theorem bytes_of_cnt_zero {s : State} (hc : s.cnt = 0) : s.bytes = [] := by
  simp [State.bytes, hc]

/-- An append adds the byte at the end of the bytes held (R67 "append"). -/
theorem bytes_of_append {s t : State} {b : Byte} (h : s.append b = .ok t) : t.bytes = s.bytes ++ [b] := by
  obtain ⟨hc, rfl⟩ := append_ok h
  have hearlier : ∀ i ∈ List.range s.cnt.toNat,
      ((s.buf.write s.cnt.toNat b).read i).getD 0 = (s.buf.read i).getD 0 := fun i hi => by
    rw [Memory.read_write_other s.buf b (List.mem_range.1 hi).ne]
  simp only [State.bytes, cnt_add_one hc, List.range_succ, List.map_append, List.map_singleton,
    List.map_congr_left hearlier, Memory.read_write_same, Option.getD_some]

@[simp] theorem State.finish_bytes (s : State) (o : Output) : (s.finish o).bytes = s.bytes := rfl
@[simp] theorem State.goTo_bytes (s : State) (st : FrameState) : (s.goTo st).bytes = s.bytes := rfl
@[simp] theorem State.recordHeader_bytes (s : State) : s.recordHeader.bytes = s.bytes := rfl

theorem phase_awaitingHeader {s : State} (h : s.st = .awaitingHeader) : s.phase = .awaitingHeader := by
  rw [State.phase, h]

theorem phase_collecting {s : State} (h : s.st = .collectingChannels) : s.phase = .collecting s.hdr s.bytes := by
  rw [State.phase, h]

theorem phase_awaitingExtras {s : State} (h : s.st = .awaitingExtras) : s.phase = .awaitingExtras s.hdr s.bytes := by
  rw [State.phase, h]

theorem phase_awaitingFooter {s : State} (h : s.st = .awaitingFooter) : s.phase = .awaitingFooter s.hdr s.bytes := by
  rw [State.phase, h]

/-! ### `accept` of the document, case by case (R67) -/

theorem acceptByte_headerMarker (x : RawByte) (hb : x.byte = 0x0F#8) :
    acceptByte .awaitingHeader x = (.collecting ⟨x.start, x.stop⟩ [], []) := if_pos hb

theorem acceptByte_noHeaderMarker (x : RawByte) (hb : x.byte ≠ 0x0F#8) :
    acceptByte .awaitingHeader x = (.awaitingHeader, []) := if_neg hb

theorem acceptByte_collect (h : TimeInterval) {bs : List Byte} (x : RawByte) (hn : bs.length ≤ 20) :
    acceptByte (.collecting h bs) x = (.collecting h (bs ++ [x.byte]), []) := if_neg (by simp; omega)

theorem acceptByte_collectLast (h : TimeInterval) {bs : List Byte} (x : RawByte) (hn : bs.length = 21) :
    acceptByte (.collecting h bs) x = (.awaitingExtras h (bs ++ [x.byte]), []) := if_pos (by simp [hn])

theorem acceptByte_footerMarker (h : TimeInterval) (bs : List Byte) (x : RawByte) (hb : x.byte = 0x00#8) :
    acceptByte (.awaitingFooter h bs) x = (.awaitingHeader, triple h ⟨x.start, x.stop⟩ (payloadOf bs)) := if_pos hb

theorem acceptByte_noFooterMarker (h : TimeInterval) (bs : List Byte) (x : RawByte) (hb : x.byte ≠ 0x00#8) :
    acceptByte (.awaitingFooter h bs) x = (.awaitingHeader, []) := if_neg hb

/-! ### What the invariant depends on -/

theorem legal_of_collecting {s : State} (h : s.st = .collectingChannels) (hc : s.cnt.toNat < 22) : s.legal = true := by
  rw [State.legal, h]
  exact decide_eq_true hc

/-- A legal state that holds no more bytes than one that meets the invariant, in the same buffer, meets it too. -/
theorem inv_of_same_buf {s t : State} (hs : s.Inv) (hl : t.legal = true) (hb : t.buf = s.buf)
    (hc : t.cnt.toNat ≤ s.cnt.toNat) : t.Inv := by
  obtain ⟨-, hwf, hheld⟩ := hs
  exact ⟨hl, hb ▸ hwf, fun i hi => hb ▸ hheld i (by omega)⟩

/-- After an append the buffer is in canonical form and holds every byte below `cnt`. -/
theorem held_of_append {s t : State} {b : Byte} (hs : s.Inv) (h : s.append b = .ok t) :
    t.buf.wf = true ∧ ∀ i, i < t.cnt.toNat → (t.buf.read i).isSome = true := by
  obtain ⟨-, hwf, hheld⟩ := hs
  obtain ⟨hc, rfl⟩ := append_ok h
  refine ⟨Memory.wf_write b hwf hc, fun i hi => ?_⟩
  simp only [cnt_add_one hc] at hi
  by_cases he : i = s.cnt.toNat
  · simp [he, Memory.read_write_same]
  · rw [Memory.read_write_other _ _ he]
    exact hheld i (by omega)

theorem cnt_of_append {s t : State} {b : Byte} (h : s.append b = .ok t) : t.cnt.toNat = s.cnt.toNat + 1 := by
  obtain ⟨hc, rfl⟩ := append_ok h
  exact cnt_add_one hc

theorem st_of_append {s t : State} {b : Byte} (h : s.append b = .ok t) : t.st = s.st := by
  obtain ⟨-, rfl⟩ := append_ok h
  rfl

theorem hdr_of_append {s t : State} {b : Byte} (h : s.append b = .ok t) : t.hdr = s.hdr := by
  obtain ⟨-, rfl⟩ := append_ok h
  rfl

theorem input_of_append {s t : State} {b : Byte} (h : s.append b = .ok t) : t.input = s.input := by
  obtain ⟨-, rfl⟩ := append_ok h
  rfl

/-! ### Every clock edge answers -/

/-- In a legal state a presented byte is accepted, whatever it is: one case per FrameState and per condition tested. -/
theorem step_answers_of_presents {s : State} (hs : s.Inv) (hp : s.presents = true) : ∃ t, step s = .next t := by
  have hl := hs.1
  cases hst : s.st with
  | awaitingHeader =>
    have hc := legal_awaitingHeader hst hl
    by_cases hb : s.port.byte = 0x0F#8
    · exact ⟨_, step_hdrSync hp hst hc hb⟩
    · exact ⟨_, step_hdrSkip hp hst hc hb⟩
  | collectingChannels =>
    cases hlast : s.last with
    | true => exact ⟨_, step_collectLast hp hst (by simpa [State.last] using hlast)⟩
    | false => exact ⟨_, step_collect hp hst (last_eq_false hlast (legal_collecting hst hl))⟩
  | awaitingExtras => exact ⟨_, step_extras hp hst (legal_awaitingExtras hst hl)⟩
  | awaitingFooter =>
    have hc := legal_awaitingFooter hst hl
    by_cases hb : s.port.byte = 0x00#8
    · exact ⟨_, step_ftrSync hp hst hc hb (payload_of_inv hs hc)⟩
    · exact ⟨_, step_ftrDrop hp hst hc hb⟩

/-- Settles O26: RESET and IDLE need no condition, and a presented byte is accepted in every FrameState. -/
theorem noStepStopsUnderInvariant : Obligations.NoStepStopsUnderInvariant := by
  intro s hs
  cases hr : s.port.rst with
  | true => exact ⟨_, step_reset hr⟩
  | false =>
    cases hv : s.port.inValid with
    | false => exact ⟨_, step_idle hr hv⟩
    | true => exact step_answers_of_presents hs (by simp [State.presents, hr, hv])

/-! ### What every clock edge keeps and does -/

/-- Every clock edge keeps the invariant (R23). -/
theorem inv_of_edge {s t : State} (hs : s.Inv) (h : Edge s t) : t.Inv := by
  cases h with
  | reset hr => exact ⟨rfl, rfl, fun i hi => absurd hi (Nat.not_lt_zero i)⟩
  | idle hr hv => exact inv_of_same_buf hs hs.1 rfl le_rfl
  | hdrSync hp hst hc hb => exact inv_of_same_buf hs (by simp [State.legal, hc]) rfl le_rfl
  | hdrSkip hp hst hc hb => exact inv_of_same_buf hs hs.1 rfl le_rfl
  | collect hp hst hc u ha =>
    have hcnt : u.cnt.toNat < 22 := by rw [cnt_of_append ha]; omega
    exact ⟨legal_of_collecting (s := u.finish .silent) ((st_of_append ha).trans hst) hcnt,
      held_of_append (t := u) hs ha⟩
  | collectLast hp hst hc u ha =>
    have hcnt : u.cnt = 22 := BitVec.eq_of_toNat_eq (by rw [cnt_of_append ha, hc]; rfl)
    exact ⟨by simp [State.legal, hcnt], held_of_append (t := u) hs ha⟩
  | extras hp hst hc => exact inv_of_same_buf hs (by simp [State.legal, hc]) rfl le_rfl
  | ftrSync hp hst hc hb p hpl => exact inv_of_same_buf hs rfl rfl (Nat.zero_le _)
  | ftrDrop hp hst hc hb => exact inv_of_same_buf hs rfl rfl (Nat.zero_le _)

/-- Every clock edge consumes one port cycle (R41). -/
theorem input_of_edge {s t : State} (h : Edge s t) : t.input = s.input.tail := by
  cases h with
  | collect _ _ _ u ha | collectLast _ _ _ u ha => simp [input_of_append ha]
  | _ => rfl

/-- The commuting diagram of one byte: a clock edge that is presented a byte does to the document's state what `accept`
does, and puts out the same events (R67). -/
theorem acceptByte_of_edge {s t : State} (hs : s.Inv) (hp : s.presents = true) (h : Edge s t) :
    (t.phase, t.out.events) = acceptByte s.phase s.port.raw := by
  cases h with
  | reset hr => simp [State.presents, hr] at hp
  | idle hr hv => simp [State.presents, hv] at hp
  | hdrSync _ hst hc hb =>
    rw [phase_awaitingHeader hst, acceptByte_headerMarker s.port.raw hb, phase_collecting rfl]
    simp [bytes_of_cnt_zero hc, State.interval, PortCycle.raw]
  | hdrSkip _ hst hc hb =>
    rw [phase_awaitingHeader hst, acceptByte_noHeaderMarker s.port.raw hb]
    exact Prod.ext (phase_awaitingHeader hst) rfl
  | collect _ hst hc u ha =>
    rw [phase_collecting hst, acceptByte_collect _ _ (by simpa using hc),
      phase_collecting (s := u.finish .silent) ((st_of_append ha).trans hst)]
    simp [bytes_of_append ha, hdr_of_append ha, PortCycle.raw]
  | collectLast _ hst hc u ha =>
    rw [phase_collecting hst, acceptByte_collectLast _ _ (by simp [hc]), phase_awaitingExtras rfl]
    simp [bytes_of_append ha, hdr_of_append ha, PortCycle.raw]
  | extras _ hst hc =>
    rw [phase_awaitingExtras hst]
    rfl
  | ftrSync _ hst hc hb p hpl =>
    obtain rfl : payloadOf s.bytes = p := by simpa [payload_of_inv hs hc] using hpl
    rw [phase_awaitingFooter hst, acceptByte_footerMarker _ _ s.port.raw hb]
    rfl
  | ftrDrop _ hst hc hb =>
    rw [phase_awaitingFooter hst, acceptByte_noFooterMarker _ _ s.port.raw hb]
    rfl

/-! ### Streams -/

/-- One byte of a stream: the step answers, keeps the invariant, leaves the rest of the stream presented and does what
`accept` does. -/
theorem step_refines_acceptByte {s : State} {x : RawByte} {rest : List PortCycle} (hs : s.Inv)
    (hin : s.input = PortCycle.ofByte x :: rest) :
    ∃ t, step s = .next t ∧ t.Inv ∧ t.input = rest ∧ (t.phase, t.out.events) = acceptByte s.phase x := by
  have hp := presents_of_cons hin
  obtain ⟨t, ht⟩ := step_answers_of_presents hs hp
  have hedge := edge_of_step ht
  refine ⟨t, ht, inv_of_edge hs hedge, by rw [input_of_edge hedge, hin, List.tail_cons], ?_⟩
  rw [acceptByte_of_edge hs hp hedge, port_of_cons hin]
  rfl

/-- A run over the stream that the input presents is the fold of `accept`. -/
theorem run_refines_acceptAll {s : State} {xs : List RawByte} (hs : s.Inv)
    (hin : s.input = xs.map PortCycle.ofByte) :
    ∃ t ev, run xs.length s = some (t, ev) ∧ t.Inv ∧ (t.phase, ev) = acceptAll s.phase xs := by
  induction xs generalizing s with
  | nil => exact ⟨s, [], rfl, hs, rfl⟩
  | cons x xs ih =>
    obtain ⟨u, hstep, hu, huin, hacc⟩ := step_refines_acceptByte hs hin
    obtain ⟨t, ev, hrun, ht, hfold⟩ := ih hu huin
    refine ⟨t, u.out.events ++ ev, by rw [List.length_cons, run_succ _ hstep, hrun]; rfl, ht, ?_⟩
    rw [acceptAll, ← hacc, ← hfold]

/-- What is presented is no part of the invariant. -/
theorem inv_feed {s : State} (hs : s.Inv) (xs : List RawByte) : (s.feed xs).Inv :=
  inv_of_same_buf hs hs.1 rfl le_rfl

/-- Settles O23, by induction over the stream: each byte is one commuting step. -/
theorem runIsTheFoldOfAccept : Obligations.RunIsTheFoldOfAccept :=
  fun s xs hs => run_refines_acceptAll (inv_feed hs xs) (s.feed_input xs)

end Sys2Proof.Machine
end

/-! PROOFS. Family 10_state.md: the invariant of R23 at reset and along every step, the protocol position (R20), the
frame of every state element (R30), unreachable combinations (R24), and what of the state can be observed (R17, R18). -/

namespace Sys2Proof.Machine

/-! ### The invariant (R23) -/

/-- Settles O25: a step that answers is a clock edge, and every clock edge keeps the invariant. -/
theorem everyStepKeepsInvariant : Obligations.EveryStepKeepsInvariant :=
  fun _ _ hs h => inv_of_edge hs (edge_of_step h)

/-- No byte at or above `cnt` can be read (R8). -/
theorem readByte_of_cnt_le {s : State} {i : Nat} (hc : s.cnt.toNat ≤ i) : ∃ f, s.readByte i = .error f := by
  simp only [State.readByte, if_pos hc]
  split <;> exact ⟨_, rfl⟩

/-- Settles O24: with `cnt` 0 there is no byte below it that would have to be held or could be read. -/
theorem resetStateMeetsInvariant : Obligations.ResetStateMeetsInvariant :=
  ⟨⟨rfl, Memory.wf_reset, fun i hi => absurd hi (Nat.not_lt_zero i)⟩, rfl, rfl, rfl, rfl,
    fun a => readByte_of_cnt_le (Nat.zero_le a)⟩

/-! ### Unreachable combinations (R24) -/

/-- An accepted byte in a combination that no rule reaches is refused. -/
theorem onByte_unreachable {s : State} {i : Instr} (a : Answer) (hf : s.fetch = i) (hl : s.legal = false) :
    s.onByte i a = .refused .unreachableState := by
  simp [State.onByte, State.whenSelected, hf, hl]

/-- Every operation a selection word names is an operation on an accepted byte (R61). -/
theorem exec_toInstr_eq_onByte (o : SelOp) (s : State) : ∃ a, exec o.toInstr s = s.onByte o.toInstr a := by
  cases o <;> exact ⟨_, rfl⟩

/-- Settles O27: the accepted byte's operation asks for a legal state, RESET does not. -/
theorem unreachableCombinationIsRefused : Obligations.UnreachableCombinationIsRefused := by
  intro s hl
  refine ⟨fun hr hv => ?_, fun hr => ⟨_, step_reset hr, rfl, rfl⟩⟩
  have hf := fetch_of_presents (s := s) (by simp [State.presents, hr, hv])
  obtain ⟨a, ha⟩ := exec_toInstr_eq_onByte (selectOp s.st s.last s.port.byte) s
  rw [step, hf, ha]
  exact onByte_unreachable a hf hl

/-! ### The protocol position (R19, R20) -/

theorem pos_awaitingHeader {s : State} (h : s.st = .awaitingHeader) : s.pos = 0 := by
  rw [State.pos, h]

theorem pos_collecting {s : State} (h : s.st = .collectingChannels) : s.pos = 1 + s.cnt.toNat := by
  rw [State.pos, h]

theorem pos_awaitingExtras {s : State} (h : s.st = .awaitingExtras) : s.pos = 23 := by
  rw [State.pos, h]

theorem pos_awaitingFooter {s : State} (h : s.st = .awaitingFooter) : s.pos = 24 := by
  rw [State.pos, h]

/-- A clock edge that accepts a byte moves the position on by one, but for the header test at 0 and the wrap at 24. -/
theorem pos_of_edge {s t : State} (hp : s.presents = true) (h : Edge s t) :
    t.pos = if s.pos = 0 then (if s.port.byte = 0x0F#8 then 1 else 0) else if s.pos = 24 then 0 else s.pos + 1 := by
  cases h with
  | reset hr => simp [State.presents, hr] at hp
  | idle hr hv => simp [State.presents, hv] at hp
  | hdrSync _ hst hc hb =>
    rw [pos_awaitingHeader hst, pos_collecting rfl]
    simp [hb, hc]
  | hdrSkip _ hst hc hb =>
    rw [pos_awaitingHeader hst, pos_awaitingHeader (s := s.finish .silent) hst]
    simp [hb]
  | collect _ hst hc u ha =>
    rw [pos_collecting hst, pos_collecting (s := u.finish .silent) ((st_of_append ha).trans hst), State.finish_cnt,
      cnt_of_append ha, if_neg (by omega), if_neg (by omega), Nat.add_assoc]
  | collectLast _ hst hc u ha =>
    rw [pos_collecting hst, pos_awaitingExtras rfl, hc]
    rfl
  | extras _ hst hc => rw [pos_awaitingExtras hst, pos_awaitingFooter rfl]; rfl
  | ftrSync _ hst hc hb p hpl => rw [pos_awaitingFooter hst, pos_awaitingHeader rfl]; rfl
  | ftrDrop _ hst hc hb => rw [pos_awaitingFooter hst, pos_awaitingHeader rfl]; rfl

/-- Settles O30: under the invariant the accepted byte's step answers, and it is a clock edge. -/
theorem positionAdvancesByOne : Obligations.PositionAdvancesByOne := by
  intro s x rest hs hin
  have hp := presents_of_cons hin
  obtain ⟨t, ht⟩ := step_answers_of_presents hs hp
  have hpos := pos_of_edge hp (edge_of_step ht)
  rw [port_of_cons hin] at hpos
  exact ⟨t, ht, hpos⟩

/-! ### What each operation writes (R30) -/

/-- `Performs s i t`: operation `i`, never ACCEPT itself, takes `s` to `t`. It is `Edge` with the operation's name on
each case and without the guards, and the BitUnpacker's operations beside it; the frame of each state element is a case
analysis of it. -/
inductive Performs (s : State) : Instr → State → Prop
  | reset : Performs s .reset (s.afterReset.finish .silent)
  | idle : Performs s .idle (s.finish .silent)
  | hdrSync : Performs s .hdrSync ((s.recordHeader.goTo .collectingChannels).finish .silent)
  | hdrSkip (b : Byte) : Performs s (.hdrSkip b) (s.finish .silent)
  | collect (b : Byte) (u : State) (ha : s.append b = .ok u) : Performs s (.collect b) (u.finish .silent)
  | collectLast (b : Byte) (u : State) (ha : s.append b = .ok u) :
      Performs s (.collectLast b) ((u.goTo .awaitingExtras).finish .silent)
  | extras (b : Byte) : Performs s (.extras b) ((s.goTo .awaitingFooter).finish .silent)
  | ftrSync (p : Payload) : Performs s .ftrSync (s.resync.finish ⟨triple s.hdr s.interval p, allLanes p⟩)
  | ftrDrop (b : Byte) : Performs s (.ftrDrop b) (s.resync.finish .silent)
  | unpack (row : PayloadRow) (p : Payload) (l : List (Nat × Chan)) : Performs s (payloadInstr row p) (s.drive l)

/-- A clock edge performs the operation the state and the presented cycle select. -/
theorem performs_of_edge {s t : State} (h : Edge s t) : Performs s s.fetch t := by
  cases h with
  | reset hr => rw [show s.fetch = .reset by simp [fetch_eq, hr]]; exact .reset
  | idle hr hv => rw [show s.fetch = .idle by simp [fetch_eq, hr, hv]]; exact .idle
  | hdrSync hp hst hc hb => rw [fetch_hdrSync hp hst hb]; exact .hdrSync
  | hdrSkip hp hst hc hb => rw [fetch_hdrSkip hp hst hb]; exact .hdrSkip _
  | collect hp hst hc u ha => rw [fetch_collect hp hst (last_of_cnt_ne (by omega))]; exact .collect _ u ha
  | collectLast hp hst hc u ha => rw [fetch_collectLast hp hst (by simp [State.last, hc])]; exact .collectLast _ u ha
  | extras hp hst hc => rw [fetch_extras hp hst]; exact .extras _
  | ftrSync hp hst hc hb p hpl => rw [fetch_ftrSync hp hst hb]; exact .ftrSync p
  | ftrDrop hp hst hc hb => rw [fetch_ftrDrop hp hst hb]; exact .ftrDrop _

/-- The operations of format P are the rows of the BitUnpacker (R59). -/
theorem exists_payloadInstr {i : Instr} (h : i.row.format = .p) : ∃ row p, i = payloadInstr row p := by
  cases i with
  | unpack p => exact ⟨.whole, p, rfl⟩
  | unpackCh0 p => exact ⟨.ch0, p, rfl⟩
  | unpackCh1 p => exact ⟨.ch1, p, rfl⟩
  | unpackCh2 p => exact ⟨.ch2, p, rfl⟩
  | unpackCh3 p => exact ⟨.ch3, p, rfl⟩
  | unpackCh4 p => exact ⟨.ch4, p, rfl⟩
  | unpackCh5 p => exact ⟨.ch5, p, rfl⟩
  | unpackCh6 p => exact ⟨.ch6, p, rfl⟩
  | unpackCh7 p => exact ⟨.ch7, p, rfl⟩
  | unpackCh8 p => exact ⟨.ch8, p, rfl⟩
  | unpackCh9 p => exact ⟨.ch9, p, rfl⟩
  | unpackCh10 p => exact ⟨.ch10, p, rfl⟩
  | unpackCh11 p => exact ⟨.ch11, p, rfl⟩
  | unpackCh12 p => exact ⟨.ch12, p, rfl⟩
  | unpackCh13 p => exact ⟨.ch13, p, rfl⟩
  | unpackCh14 p => exact ⟨.ch14, p, rfl⟩
  | unpackCh15 p => exact ⟨.ch15, p, rfl⟩
  | _ => cases h

/-- An operation that answers performs itself, and ACCEPT the operation the state selects (R67). -/
theorem performs_of_exec {i : Instr} {s t : State} (h : exec i s = .next t) :
    Performs s (if i = .accept then s.fetch else i) t := by
  refine exec_ind (Q := fun j s t => Performs s j t) (fun _ _ he => performs_of_edge he) (fun j s l hf => ?_) h
  obtain ⟨row, p, rfl⟩ := exists_payloadInstr hf
  exact .unpack row p l

/-- Settles O31: only an append counts, and it answers below 22 only. -/
theorem cursorIsWrittenOnlyAsStated : Obligations.CursorIsWrittenOnlyAsStated := by
  intro i s t h
  have hperf := performs_of_exec h
  generalize (if i = .accept then s.fetch else i) = j at hperf ⊢
  cases hperf with
  | collect b u ha | collectLast b u ha => exact ⟨(append_ok ha).1, cnt_of_append (t := u) ha⟩
  | unpack row p l => cases row <;> rfl
  | _ => rfl

/-- Settles O32: besides RESET only HDR_SYNC records an interval. -/
theorem headerIntervalIsWrittenOnlyByHdrSync : Obligations.HeaderIntervalIsWrittenOnlyByHdrSync := by
  intro i s t h
  have hperf := performs_of_exec h
  generalize (if i = .accept then s.fetch else i) = j at hperf ⊢
  cases hperf with
  | reset => trivial
  | collect b u ha | collectLast b u ha => exact hdr_of_append (t := u) ha
  | unpack row p l => cases row <;> rfl
  | _ => rfl

/-- An append lists its byte at `cnt` and leaves every other index (R38). -/
theorem listed_of_append {s t : State} {b : Byte} (h : s.append b = .ok t) :
    t.listed s.cnt.toNat = some b ∧ ∀ a, a ≠ s.cnt.toNat → t.listed a = s.listed a := by
  obtain ⟨-, rfl⟩ := append_ok h
  exact ⟨Memory.read_write_same _ _ _, fun a ha => Memory.read_write_other _ _ ha⟩

/-- Settles O33: only an append and RESET write the buffer. -/
theorem bufferIsWrittenOnlyAtTheCursor : Obligations.BufferIsWrittenOnlyAtTheCursor := by
  intro i s t h
  have hperf := performs_of_exec h
  generalize (if i = .accept then s.fetch else i) = j at hperf ⊢
  cases hperf with
  | collect b u ha | collectLast b u ha => exact listed_of_append (t := u) ha
  | unpack row p l => cases row <;> exact fun _ => rfl
  | _ => exact fun _ => rfl

theorem draws_of_append {s t : State} {b : Byte} (h : s.append b = .ok t) : t.draws = s.draws := by
  obtain ⟨-, rfl⟩ := append_ok h
  rfl

/-- Every operation but the BitUnpacker's consumes one port cycle (R41, R85). -/
theorem input_of_performs {i : Instr} {s t : State} (h : Performs s i t) :
    t.input = if i.row.format = .p then s.input else s.input.tail := by
  cases h with
  | collect b u ha | collectLast b u ha => exact congrArg List.tail (input_of_append (t := u) ha)
  | unpack row p l => cases row <;> rfl
  | _ => rfl

/-- Only RESET draws a free value (log 5). -/
theorem draws_of_performs {i : Instr} {s t : State} (h : Performs s i t) (hi : i ≠ .reset) : t.draws = s.draws := by
  cases h with
  | reset => exact absurd rfl hi
  | collect b u ha | collectLast b u ha => exact draws_of_append (t := u) ha
  | _ => rfl

theorem format_toInstr (o : SelOp) : o.toInstr.row.format = .s := by
  cases o <;> rfl

/-- No clock edge selects an operation of format P (R85). -/
theorem format_fetch_ne_p (s : State) : s.fetch.row.format ≠ .p := by
  rw [State.fetch]
  split
  · decide
  · decide
  · rw [format_toInstr]; decide

/-- ACCEPT and the operation it performs are both clocked. -/
theorem format_performed_eq_p_iff (i : Instr) (s : State) :
    (if i = .accept then s.fetch else i).row.format = .p ↔ i.row.format = .p := by
  split
  · next hi => exact iff_of_false (format_fetch_ne_p s) (by subst hi; decide)
  · rfl

theorem presents_of_execAccept {s t : State} (h : execAccept s = .next t) : s.presents = true := by
  unfold execAccept at h
  split at h
  · assumption
  · cases h

/-- ACCEPT never performs RESET: rst has priority (R62). -/
theorem performed_ne_reset {i : Instr} {s t : State} (h : exec i s = .next t) (hi : i ≠ .reset) :
    (if i = .accept then s.fetch else i) ≠ .reset := by
  split
  · next ha =>
    subst ha
    intro hreset
    have hformat := format_toInstr (selectOp s.st s.last s.port.byte)
    rw [← fetch_of_presents (presents_of_execAccept h), hreset] at hformat
    cases hformat
  · exact hi

/-- Settles O34: `st` by the operation performed; the port by its format; the free values by its being RESET or not. -/
theorem frameStateAndPortsAreWrittenOnlyAsStated : Obligations.FrameStateAndPortsAreWrittenOnlyAsStated := by
  intro i s t h
  have hperf := performs_of_exec h
  have hinput := input_of_performs hperf
  simp only [format_performed_eq_p_iff] at hinput
  refine ⟨?_, hinput, fun hi => draws_of_performs hperf (performed_ne_reset h hi)⟩
  clear hinput
  generalize (if i = .accept then s.fetch else i) = j at hperf ⊢
  cases hperf with
  | collect b u ha => exact st_of_append (t := u) ha
  | unpack row p l => cases row <;> rfl
  | _ => rfl

/-! ### What can be observed (R17, R18, R21) -/

/-- One clock edge of the document's machine: RESET, IDLE (R81, R82), or `accept` (R67). -/
def clockPhase (ph : Phase) (c : PortCycle) : Phase × List Event :=
  if c.rst then (.awaitingHeader, []) else if c.inValid then acceptByte ph c.raw else (ph, [])

/-- Under the invariant a step answers, and what it makes of the document's state and puts out depends on the document's
state and the presented cycle only. -/
theorem step_refines_clockPhase {s : State} (hs : s.Inv) :
    ∃ t, step s = .next t ∧ t.Inv ∧ t.input = s.input.tail ∧ (t.phase, t.out.events) = clockPhase s.phase s.port := by
  obtain ⟨t, ht⟩ := noStepStopsUnderInvariant s hs
  have hedge := edge_of_step ht
  refine ⟨t, ht, inv_of_edge hs hedge, input_of_edge hedge, ?_⟩
  unfold clockPhase
  cases hr : s.port.rst with
  | true =>
    cases (step_reset hr).symm.trans ht
    rfl
  | false =>
    cases hv : s.port.inValid with
    | false =>
      cases (step_idle hr hv).symm.trans ht
      rfl
    | true => exact acceptByte_of_edge hs (by simp [State.presents, hr, hv]) hedge

/-- Settles O45, by induction on the number of steps: each step acts on the document's state and the input alone. -/
theorem staleStateIsUnobservable : Obligations.StaleStateIsUnobservable := by
  intro n
  induction n with
  | zero => exact fun s u _ _ hph _ => ⟨s, u, [], rfl, rfl, hph⟩
  | succ n ih =>
    intro s u hs hu hph hin
    obtain ⟨s', hstep, hs', hin', hphase⟩ := step_refines_clockPhase hs
    obtain ⟨u', ustep, hu', uin', uphase⟩ := step_refines_clockPhase hu
    have hport : s.port = u.port := by rw [State.port, State.port, hin]
    rw [hph, hport, ← uphase] at hphase
    obtain ⟨hph', hev⟩ := Prod.mk.inj hphase
    obtain ⟨t, v, ev, hrun, urun, hend⟩ := ih s' u' hs' hu' hph' (by rw [hin', uin', hin])
    refine ⟨t, v, u'.out.events ++ ev, ?_, ?_, hend⟩
    · rw [run_succ n hstep, hrun, hev]; rfl
    · rw [run_succ n ustep, urun]; rfl

end Sys2Proof.Machine

/-! PROOFS. Family 20_memory.md: stored bytes never control (R46), and MemRead on a complete buffer is a slice of the
payload (R34, R35). -/

namespace Sys2Proof.Machine

/-! ### What controls the block (R46) -/

/-- The `st`, the `cnt` and the number of events that operation `i` leaves, from the `st` and `cnt` before it: no buffer
byte and no header interval is among the arguments. (ACCEPT stands for the operation it performs, R67, and is not meant
here.) -/
def controlAfter (i : Instr) (st : FrameState) (cnt : BitVec 5) : FrameState × BitVec 5 × Nat :=
  match i with
  | .hdrSync => (.collectingChannels, cnt, 0)
  | .collect _ => (st, cnt + 1, 0)
  | .collectLast _ => (.awaitingExtras, cnt + 1, 0)
  | .extras _ => (.awaitingFooter, cnt, 0)
  | .ftrSync => (.awaitingHeader, 0, 3)
  | .ftrDrop _ | .reset => (.awaitingHeader, 0, 0)
  | _ => (st, cnt, 0)

theorem controlAfter_of_performs {i : Instr} {s t : State} (h : Performs s i t) :
    (t.st, t.cnt, t.out.events.length) = controlAfter i s.st s.cnt := by
  cases h with
  | collect b u ha | collectLast b u ha =>
    obtain ⟨-, rfl⟩ := append_ok ha
    rfl
  | unpack row p l => cases row <;> rfl
  | _ => rfl

/-- The operation selected depends on `st`, `cnt` and the presented cycle only (R60, R66). -/
theorem fetch_congr {s u : State} (hst : s.st = u.st) (hcnt : s.cnt = u.cnt) (hin : s.input = u.input) :
    s.fetch = u.fetch := by
  have hport : s.port = u.port := by rw [State.port, State.port, hin]
  have hlast : s.last = u.last := by rw [State.last, State.last, hcnt]
  rw [fetch_eq, fetch_eq, hport, hlast, hst]

/-- Settles O35: both states select the same operation, and `controlAfter` takes it, `st` and `cnt` only. -/
theorem storedDataNeverControls : Obligations.StoredDataNeverControls := by
  intro s u hs hu hst hcnt hin
  have hfetch := fetch_congr hst hcnt hin
  obtain ⟨t, ht⟩ := noStepStopsUnderInvariant s hs
  obtain ⟨v, hv⟩ := noStepStopsUnderInvariant u hu
  have tedge := edge_of_step ht
  have vedge := edge_of_step hv
  have hcontrol : (t.st, t.cnt, t.out.events.length) = (v.st, v.cnt, v.out.events.length) := by
    rw [controlAfter_of_performs (performs_of_edge tedge), controlAfter_of_performs (performs_of_edge vedge),
      hfetch, hst, hcnt]
  simp only [Prod.mk.injEq] at hcontrol
  obtain ⟨hst', hcnt', hevents⟩ := hcontrol
  exact ⟨hfetch, t, v, ht, hv, hst', hcnt', by rw [input_of_edge tedge, input_of_edge vedge, hin], hevents⟩

/-! ### Reads of a complete buffer (R34, R35) -/

/-- The first bytes of a sequence are the low digits of its number. -/
theorem leNat_append (as bs : List Byte) : leNat (as ++ bs) = leNat as + 256 ^ as.length * leNat bs := by
  induction as with
  | nil => simp [leNat]
  | cons a as ih =>
    simp only [List.cons_append, leNat, List.length_cons, ih]
    ring

theorem leNat_append_mod (as bs : List Byte) : leNat (as ++ bs) % 256 ^ as.length = leNat as := by
  rw [leNat_append, Nat.add_mul_mod_self_left, Nat.mod_eq_of_lt (leNat_lt as)]

theorem leNat_append_div (as bs : List Byte) : leNat (as ++ bs) / 256 ^ as.length = leNat bs := by
  rw [leNat_append, Nat.add_mul_div_left _ _ (by positivity), Nat.div_eq_of_lt (leNat_lt as), Nat.zero_add]

/-- A read of at least one byte answers with the first byte and a read of the others. -/
theorem readBytes_succ_ok {s : State} {i n : Nat} {bs : List Byte} (h : s.readBytes i (n + 1) = .ok bs) :
    ∃ b cs, bs = b :: cs ∧ s.readByte i = .ok b ∧ s.readBytes (i + 1) n = .ok cs := by
  rw [State.readBytes] at h
  split at h
  · cases h
  · next b hb =>
    split at h
    · cases h
    · next cs hcs => exact ⟨b, cs, by simpa using h.symm, hb, hcs⟩

theorem length_of_readBytes {s : State} {i n : Nat} {bs : List Byte} (h : s.readBytes i n = .ok bs) :
    bs.length = n := by
  induction n generalizing i bs with
  | zero => cases h; rfl
  | succ n ih =>
    obtain ⟨b, cs, rfl, -, hcs⟩ := readBytes_succ_ok h
    rw [List.length_cons, ih hcs]

/-- A read that answers is a read of its first `m` bytes and a read of the `n` after them. -/
theorem readBytes_add_ok {s : State} {i m n : Nat} {bs : List Byte} (h : s.readBytes i (m + n) = .ok bs) :
    ∃ as cs, bs = as ++ cs ∧ s.readBytes i m = .ok as ∧ s.readBytes (i + m) n = .ok cs := by
  induction m generalizing i bs with
  | zero => exact ⟨[], bs, rfl, rfl, by simpa using h⟩
  | succ m ih =>
    rw [Nat.add_right_comm] at h
    obtain ⟨b, ds, rfl, hb, hds⟩ := readBytes_succ_ok h
    obtain ⟨as, cs, rfl, has, hcs⟩ := ih hds
    refine ⟨b :: as, cs, rfl, ?_, by rwa [Nat.add_right_comm, Nat.add_assoc] at hcs⟩
    rw [State.readBytes, hb, has]

/-- P is the number of the 22 bytes read (R34). -/
theorem payload_ok {s : State} {p : Payload} (h : s.payload = .ok p) :
    ∃ bs, s.readBytes 0 22 = .ok bs ∧ p.toNat = leNat bs := by
  rw [State.payload] at h
  cases hbs : s.readBytes 0 Config.channelsBytes with
  | error f => rw [hbs] at h; cases h
  | ok bs =>
    rw [hbs] at h
    cases h
    have hlt := leNat_lt bs
    rw [length_of_readBytes hbs] at hlt
    exact ⟨bs, rfl, Nat.mod_eq_of_lt hlt⟩

/-- The bytes from `i` on, `n` of them, as bits of P (R34). -/
theorem toNat_extractLsb'_bytes (p : Payload) (i n : Nat) :
    (p.extractLsb' (8 * i) (8 * n)).toNat = p.toNat / 256 ^ i % 256 ^ n := by
  rw [BitVec.extractLsb'_toNat, Nat.shiftRight_eq_div_pow, pow_mul, pow_mul]
  rfl

/-- Settles O55: the 22 bytes read are the `i` bytes before the slice, its `n` bytes, and the rest. -/
theorem memReadIsASliceOfThePayload : Obligations.MemReadIsASliceOfThePayload := by
  intro s p i n hp hin
  obtain ⟨bs, hbs, hpbs⟩ := payload_ok hp
  rw [show 22 = i + (n + (22 - (i + n))) by omega] at hbs
  obtain ⟨before, rest, rfl, hbefore, hrest⟩ := readBytes_add_ok hbs
  obtain ⟨slice, after, rfl, hslice, -⟩ := readBytes_add_ok hrest
  rw [Nat.zero_add] at hslice
  have hvalue : leNat (before ++ (slice ++ after)) / 256 ^ i % 256 ^ n = leNat slice := by
    rw [← length_of_readBytes hbefore, leNat_append_div, ← length_of_readBytes hslice, leNat_append_mod]
  rw [State.memRead, hslice, toNat_extractLsb'_bytes, hpbs, hvalue]
  rfl

end Sys2Proof.Machine

/-! PROOFS. Family 30_encoding.md: the selection word as its three fields (R60), the opcode map (R61, R62), the encoder
and the decoder, words laid out in bytes, and the operation a clock edge selects (R66). -/

namespace Sys2Proof.Machine

/-! ### The selection word as its three fields (R60) -/

/-- A selection word is its fields put together. -/
theorem selWord_fields (w : BitVec 11) : selWord (selState w) (selLast w) (selByte w) = w := by
  have hcode (c : BitVec 2) : (FrameState.ofCode c).code = c := by revert c; decide
  apply BitVec.eq_of_getLsbD_eq
  intro i hi
  simp only [selWord, selState, selLast, selByte, hcode, BitVec.getLsbD_append, BitVec.getLsbD_ofBool,
    BitVec.getLsbD_extractLsb']
  split
  · simp [*]
  · split
    · simp [show i = 8 by omega]
    · simp [show 9 + (i - 8 - 1) = i by omega, show i - 8 - 1 < 2 by omega]

theorem selWord_inj {st st' : FrameState} {l l' : Bool} {b b' : Byte} :
    selWord st l b = selWord st' l' b' ↔ st = st' ∧ l = l' ∧ b = b' := by
  refine ⟨fun h => ⟨?_, ?_, ?_⟩, by rintro ⟨rfl, rfl, rfl⟩; rfl⟩
  · rw [← selState_selWord st l b, h, selState_selWord]
  · rw [← selLast_selWord st l b, h, selLast_selWord]
  · rw [← selByte_selWord st l b, h, selByte_selWord]

/-- A mask acts on each field of a selection word. -/
theorem selWord_and (st : FrameState) (l : Bool) (b : Byte) (c : BitVec 2) (k : BitVec 1) (m : Byte) :
    selWord st l b &&& (c ++ k ++ m) = (st.code &&& c) ++ (BitVec.ofBool l &&& k) ++ (b &&& m) := by
  rw [selWord, BitVec.and_append, BitVec.and_append]

/-- The mask 0x600 of R61 keeps the FrameState. -/
theorem selWord_and_600 (st : FrameState) (l : Bool) (b : Byte) : selWord st l b &&& 0x600#11 = selWord st false 0 := by
  refine (selWord_and st l b 3#2 0#1 0#8).trans ?_
  rw [selWord, BitVec.and_zero, BitVec.and_zero]
  cases st <;> rfl

/-- The mask 0x700 of R61 keeps the FrameState and `last`. -/
theorem selWord_and_700 (st : FrameState) (l : Bool) (b : Byte) : selWord st l b &&& 0x700#11 = selWord st l 0 := by
  refine (selWord_and st l b 3#2 1#1 0#8).trans ?_
  rw [selWord, BitVec.and_zero]
  cases st <;> cases l <;> rfl

/-- The mask 0x6FF of R61 keeps all but `last`. -/
theorem selWord_and_6FF (st : FrameState) (l : Bool) (b : Byte) : selWord st l b &&& 0x6FF#11 = selWord st false b := by
  refine (selWord_and st l b 3#2 0#1 (BitVec.allOnes 8)).trans ?_
  rw [selWord, BitVec.and_zero, BitVec.and_allOnes]
  cases st <;> rfl

/-! ### Encoder and decoder (R61, R62) -/

theorem decode_sel_selWord (st : FrameState) (l : Bool) (b : Byte) :
    decode (.sel (selWord st l b)) = (selectOp st l b).toInstr := by
  rw [decode, decodeSel_selWord]

/-- `last` as the row of a FrameState tests it: in CollectingChannels only (R61). -/
def testedLast : FrameState → Bool → Bool
  | .collectingChannels, l => l
  | _, _ => false

theorem testedLast_of_ne {st : FrameState} (h : st ≠ .collectingChannels) (l : Bool) : testedLast st l = false := by
  cases st with
  | collectingChannels => exact absurd rfl h
  | _ => rfl

theorem selectOp_testedLast (st : FrameState) (l : Bool) (b : Byte) :
    selectOp st (testedLast st l) b = selectOp st l b := by
  cases st <;> rfl

/-- The operation that three fields select is encoded as their word, with `last` cleared where it is untested. -/
theorem encode_selectOp (st : FrameState) (l : Bool) (b : Byte) :
    encode (selectOp st l b).toInstr = .sel (selWord st (testedLast st l) b) := by
  cases st with
  | awaitingHeader =>
    rw [testedLast_of_ne (by decide), selectOp]
    split
    · next hb => rw [hb]; rfl
    · rfl
  | collectingChannels => cases l <;> rfl
  | awaitingExtras => rw [testedLast_of_ne (by decide)]; rfl
  | awaitingFooter =>
    rw [testedLast_of_ne (by decide), selectOp]
    split
    · next hb => rw [hb]; rfl
    · rfl

theorem encode_payloadInstr (row : PayloadRow) (p : Payload) : encode (payloadInstr row p) = .payload row p := by
  cases row <;> rfl

/-- The well-formed operations of format S are those that a selection word names (R61). -/
theorem exists_selectOp {i : Instr} (hf : i.row.format = .s) (hwf : i.wf = true) :
    ∃ st l b, i = (selectOp st l b).toInstr := by
  cases i with
  | hdrSync => exact ⟨.awaitingHeader, false, 0x0F#8, rfl⟩
  | hdrSkip b => exact ⟨.awaitingHeader, false, b, by rw [selectOp, if_neg (by simpa [Instr.wf] using hwf)]; rfl⟩
  | collect b => exact ⟨.collectingChannels, false, b, rfl⟩
  | collectLast b => exact ⟨.collectingChannels, true, b, rfl⟩
  | extras b => exact ⟨.awaitingExtras, false, b, rfl⟩
  | ftrSync => exact ⟨.awaitingFooter, false, 0x00#8, rfl⟩
  | ftrDrop b => exact ⟨.awaitingFooter, false, b, by rw [selectOp, if_neg (by simpa [Instr.wf] using hwf)]; rfl⟩
  | _ => cases hf

theorem wf_selectOp (st : FrameState) (l : Bool) (b : Byte) : (selectOp st l b).toInstr.wf = true := by
  cases st with
  | awaitingHeader =>
    rw [selectOp]
    split
    · rfl
    · simpa [SelOp.toInstr, Instr.wf]
  | collectingChannels => cases l <;> rfl
  | awaitingExtras => rfl
  | awaitingFooter =>
    rw [selectOp]
    split
    · rfl
    · simpa [SelOp.toInstr, Instr.wf]

/-- The operations of format C are the port-level ones (R62). -/
theorem exists_controlOp {i : Instr} (hf : i.row.format = .c) : ∃ o : ControlOp, i = o.toInstr := by
  cases i with
  | reset => exact ⟨.reset, rfl⟩
  | idle => exact ⟨.idle, rfl⟩
  | accept => exact ⟨.accept, rfl⟩
  | _ => cases hf

/-- Settles O3, format by format: a selection word gives back the fields its operation was selected by. -/
theorem decodeOfEncodeIsIdentity : Obligations.DecodeOfEncodeIsIdentity := by
  intro i hwf
  cases hf : i.row.format with
  | s =>
    obtain ⟨st, l, b, rfl⟩ := exists_selectOp hf hwf
    rw [encode_selectOp, decode_sel_selWord, selectOp_testedLast]
  | p =>
    obtain ⟨row, p, rfl⟩ := exists_payloadInstr hf
    rw [encode_payloadInstr, decode]
  | c =>
    obtain ⟨o, rfl⟩ := exists_controlOp hf
    cases o <;> rfl

/-- What a selection word decodes to is encoded as its own fields, with `last` cleared where it is untested. -/
theorem encode_decode_sel (w : BitVec 11) :
    encode (decode (.sel w)) = .sel (selWord (selState w) (testedLast (selState w) (selLast w)) (selByte w)) :=
  encode_selectOp (selState w) (selLast w) (selByte w)

/-- Settles O4: `last` survives where it is tested, and the mask 0x6FF clears it elsewhere. -/
theorem encodeOfDecodeKeepsTestedBits : Obligations.EncodeOfDecodeKeepsTestedBits := by
  refine ⟨fun w hst => ?_, fun w hst => ?_, encode_payloadInstr, by decide⟩
  · have hlast : testedLast (selState w) (selLast w) = selLast w := by rw [hst]; rfl
    rw [encode_decode_sel, hlast, selWord_fields]
  · have hmasked : w &&& 0x6FF#11 = selWord (selState w) false (selByte w) := by
      rw [← selWord_and_6FF _ (selLast w), selWord_fields]
    rw [encode_decode_sel, testedLast_of_ne hst, ← hmasked]
    rfl

/-! ### The opcode map as a partition (R61, R62) -/

/-- A row applies when the masked word is its pattern and the word's byte is not its exception. -/
theorem applies_selWord_iff {r : Row} {mask pattern : BitVec 11} (hmask : r.mask = mask.toNat)
    (hpattern : r.pattern = pattern.toNat) (st : FrameState) (l : Bool) (b : Byte) :
    r.applies (selWord st l b).toNat = true ↔ selWord st l b &&& mask = pattern ∧ r.except ≠ some b := by
  have hbyte : BitVec.ofNat 8 (selWord st l b).toNat = b := selByte_selWord st l b
  rw [Row.applies, hbyte, hmask, hpattern, ← BitVec.toNat_and, Bool.and_eq_true, beq_iff_eq, bne_iff_ne,
    BitVec.toNat_inj]

/-- A row that fixes the FrameState only. -/
theorem applies_600 {r : Row} (st' : FrameState) (hmask : r.mask = 0x600)
    (hpattern : r.pattern = (selWord st' false 0).toNat) (st : FrameState) (l : Bool) (b : Byte) :
    r.applies (selWord st l b).toNat = true ↔ st = st' ∧ r.except ≠ some b := by
  rw [applies_selWord_iff (mask := 0x600#11) hmask hpattern, selWord_and_600, selWord_inj]
  simp

/-- A row that fixes the FrameState and `last`. -/
theorem applies_700 {r : Row} (st' : FrameState) (l' : Bool) (hmask : r.mask = 0x700)
    (hpattern : r.pattern = (selWord st' l' 0).toNat) (st : FrameState) (l : Bool) (b : Byte) :
    r.applies (selWord st l b).toNat = true ↔ (st = st' ∧ l = l') ∧ r.except ≠ some b := by
  rw [applies_selWord_iff (mask := 0x700#11) hmask hpattern, selWord_and_700, selWord_inj]
  simp

/-- A row that fixes the FrameState and the byte. -/
theorem applies_6FF {r : Row} (st' : FrameState) (b' : Byte) (hmask : r.mask = 0x6FF)
    (hpattern : r.pattern = (selWord st' false b').toNat) (st : FrameState) (l : Bool) (b : Byte) :
    r.applies (selWord st l b).toNat = true ↔ (st = st' ∧ b = b') ∧ r.except ≠ some b := by
  rw [applies_selWord_iff (mask := 0x6FF#11) hmask hpattern, selWord_and_6FF, selWord_inj]
  simp

/-- Settles O1: each row of R61 applies to the words with the fields it fixes, and these fields part the words. -/
theorem selRowsPartitionSelectionWords : Obligations.SelRowsPartitionSelectionWords := by
  intro w
  rw [← selWord_fields w, decode_sel_selWord]
  generalize selState w = st, selLast w = l, selByte w = b
  have hdrSync := applies_6FF (r := Instr.hdrSync.row) .awaitingHeader 0x0F#8 rfl rfl st l b
  have hdrSkip := applies_600 (r := (Instr.hdrSkip 0).row) .awaitingHeader rfl rfl st l b
  have collect := applies_700 (r := (Instr.collect 0).row) .collectingChannels false rfl rfl st l b
  have collectLast := applies_700 (r := (Instr.collectLast 0).row) .collectingChannels true rfl rfl st l b
  have extras := applies_600 (r := (Instr.extras 0).row) .awaitingExtras rfl rfl st l b
  have ftrSync := applies_6FF (r := Instr.ftrSync.row) .awaitingFooter 0x00#8 rfl rfl st l b
  have ftrDrop := applies_600 (r := (Instr.ftrDrop 1).row) .awaitingFooter rfl rfl st l b
  simp only [selRows, List.filter_cons, List.filter_nil, hdrSync, hdrSkip, collect, collectLast, extras, ftrSync,
    ftrDrop]
  cases st with
  | awaitingHeader => by_cases hb : b = 0x0F#8 <;> simp [selectOp, SelOp.toInstr, Instr.row, hb, Ne.symm]
  | collectingChannels => cases l <;> simp [selectOp, SelOp.toInstr, Instr.row]
  | awaitingExtras => simp [selectOp, SelOp.toInstr, Instr.row]
  | awaitingFooter => by_cases hb : b = 0x00#8 <;> simp [selectOp, SelOp.toInstr, Instr.row, hb, Ne.symm]

/-- Settles O2, word by word: there are four. -/
theorem controlWordSelectsPortOperation : Obligations.ControlWordSelectsPortOperation :=
  ⟨rfl, rfl, rfl, rfl, by decide⟩

/-! ### Words laid out in bytes (R33, log 11) -/

@[simp] theorem length_leBytes (n w : Nat) : (leBytes n w).length = n := by
  induction n generalizing w with
  | zero => rfl
  | succ n ih => rw [leBytes, List.length_cons, ih]

/-- Reading `n` bytes laid out gives the number back, up to what `n` bytes hold. -/
theorem leNat_leBytes (n w : Nat) : leNat (leBytes n w) = w % 256 ^ n := by
  induction n generalizing w with
  | zero => rw [pow_zero, Nat.mod_one]; rfl
  | succ n ih => rw [leBytes, leNat, ih, BitVec.toNat_ofNat, pow_succ' 256, Nat.mod_mul]

theorem codeOfBytes_control {bs : List Byte} (h : bs.length = 1) :
    codeOfBytes bs = if leNat bs < 4 then .ok (.control (BitVec.ofNat 2 (leNat bs))) else .error (.beyondWidth .c) := by
  rw [codeOfBytes, h]; rfl

theorem codeOfBytes_sel {bs : List Byte} (h : bs.length = 2) :
    codeOfBytes bs = if leNat bs < 2048 then .ok (.sel (BitVec.ofNat 11 (leNat bs))) else .error (.beyondWidth .s) := by
  rw [codeOfBytes, h]; rfl

theorem codeOfBytes_payload {bs : List Byte} (h : bs.length = 22) :
    codeOfBytes bs = .ok (.payload .whole (payloadOf bs)) := by
  rw [codeOfBytes, h]; rfl

theorem codeOfBytes_noFormat {bs : List Byte} (h1 : bs.length ≠ 1) (h2 : bs.length ≠ 2) (h22 : bs.length ≠ 22) :
    codeOfBytes bs = .error (.noFormat bs.length) := by
  rw [codeOfBytes, formatOfBytes, if_neg h1, if_neg h2, if_neg h22]

/-- Every code but a tagged channel row is read back from its bytes; the tag is not in them (log 9). -/
theorem codeOfBytes_codeBytes {c : Code} (h : ∀ row p, c = .payload row p → row = .whole) :
    codeOfBytes (codeBytes c) = .ok c := by
  cases c with
  | sel w =>
    have hw : leNat (leBytes 2 w.toNat) = w.toNat := by rw [leNat_leBytes]; omega
    rw [codeBytes, codeOfBytes_sel (length_leBytes _ _), hw, if_pos w.isLt, BitVec.ofNat_toNat, BitVec.setWidth_eq]
  | payload row p =>
    cases h row p rfl
    have hp : leNat (leBytes 22 p.toNat) = p.toNat := by rw [leNat_leBytes]; omega
    rw [codeBytes, codeOfBytes_payload (length_leBytes _ _), payloadOf, hp, BitVec.ofNat_toNat, BitVec.setWidth_eq]
  | control w =>
    have hw : leNat (leBytes 1 w.toNat) = w.toNat := by rw [leNat_leBytes]; omega
    rw [codeBytes, codeOfBytes_control (length_leBytes _ _), hw, if_pos w.isLt, BitVec.ofNat_toNat, BitVec.setWidth_eq]

/-- The decoder reads a code from its bytes as it reads the code. -/
theorem decodeBytes_codeBytes {c : Code} (h : ∀ row p, c = .payload row p → row = .whole) :
    decodeBytes (codeBytes c) = .ok (decode c) := by
  rw [decodeBytes, codeOfBytes_codeBytes h]; rfl

theorem decodeBytes_of_error {bs : List Byte} {e : DecodeError} (h : codeOfBytes bs = .error e) :
    decodeBytes bs = .error e := by
  rw [decodeBytes, h]; rfl

/-- Settles O6: the layout is read back, and each other shape fails the length or the width test. -/
theorem byteLayoutRoundTrips : Obligations.ByteLayoutRoundTrips := by
  refine ⟨fun w => decodeBytes_codeBytes nofun, fun p => decodeBytes_codeBytes fun _ _ h => by cases h; rfl,
    fun w => decodeBytes_codeBytes nofun,
    fun bs h1 h2 h22 => decodeBytes_of_error (codeOfBytes_noFormat h1 h2 h22), fun lo hi h => ?_, fun b h => ?_⟩
  · have hlarge : ¬ leNat [lo, hi] < 2048 := by simp only [leNat]; omega
    exact decodeBytes_of_error ((codeOfBytes_sel rfl).trans (if_neg hlarge))
  · have hlarge : ¬ leNat [b] < 4 := by simp only [leNat]; omega
    exact decodeBytes_of_error ((codeOfBytes_control rfl).trans (if_neg hlarge))

/-- Settles O5: each of the eleven words is evaluated. -/
theorem wordsOfTheOpcodeMapDecode : Obligations.WordsOfTheOpcodeMapDecode :=
  ⟨rfl, rfl, rfl, rfl, rfl, rfl, rfl, rfl, rfl, rfl, rfl⟩

/-! ### The operation a clock edge selects (R62, R66, R67) -/

theorem fetch_reset {s : State} (hr : s.port.rst = true) : s.fetch = .reset := by
  rw [fetch_eq, if_pos hr]

theorem fetch_idle {s : State} (hr : s.port.rst = false) (hv : s.port.inValid = false) : s.fetch = .idle := by
  simp [fetch_eq, hr, hv]

theorem presents_of_port {s : State} (hr : s.port.rst = false) (hv : s.port.inValid = true) : s.presents = true := by
  simp [State.presents, hr, hv]

/-- When a byte is presented, the selection word names the operation of this edge. -/
theorem decode_selWord_eq_fetch {s : State} (h : s.presents = true) :
    decode (.sel (selWord s.st (s.cnt == 21) s.port.byte)) = s.fetch := by
  rw [decode_sel_selWord, fetch_of_presents h, State.last]

/-- Settles O7, by the three control words. -/
theorem stepRunsTheSelectedOperation : Obligations.StepRunsTheSelectedOperation := by
  refine fun s => ⟨fun hr => ?_, fun hr hv => ?_, fun hr hv => ?_⟩
  · rw [step, fetch_reset hr]
  · rw [step, fetch_idle hr hv]
  · rw [step, decode_selWord_eq_fetch (presents_of_port hr hv)]

/-- Settles O8: both are the operation this edge selects. -/
theorem acceptPerformsTheSelectedOperation : Obligations.AcceptPerformsTheSelectedOperation := by
  intro s hr hv
  have hp := presents_of_port hr hv
  have haccept : exec .accept s = exec s.fetch s := execAccept_eq hp
  rw [decode_selWord_eq_fetch hp]
  exact ⟨haccept, haccept⟩

/-- Settles O9: what a selection word names is well formed, and RESET and IDLE always are. -/
theorem selectedOperationIsWellFormed : Obligations.SelectedOperationIsWellFormed := by
  refine ⟨fun s => ?_, fun st l b => ⟨selState_selWord st l b, selLast_selWord st l b, selByte_selWord st l b⟩⟩
  rw [fetch_eq]
  split
  · rfl
  · split
    · exact wf_selectOp _ _ _
    · rfl

/-! ### Operations that are not selected (log 8) -/

theorem whenSelected_refused {s : State} {i : Instr} (a : Answer) (h : i ≠ s.fetch) :
    s.whenSelected i a = .refused .notSelected :=
  if_neg h.symm

/-- Every clocked operation but ACCEPT asks to be the one selected. -/
theorem exec_eq_whenSelected {i : Instr} (s : State) (hf : i.row.format ≠ .p) (hi : i ≠ .accept) :
    ∃ a, exec i s = s.whenSelected i a := by
  cases i with
  | hdrSync | hdrSkip b | collect b | collectLast b | extras b | ftrSync | ftrDrop b | reset | idle =>
    exact ⟨_, rfl⟩
  | accept => exact absurd rfl hi
  | _ => exact absurd rfl hf

/-- Settles O28: ACCEPT asks for a presented byte, every other clocked operation to be the one selected. -/
theorem unselectedOperationIsRefused : Obligations.UnselectedOperationIsRefused := by
  intro s i hne hf haccept
  by_cases hi : i = .accept
  · subst hi
    exact if_neg (by simp [haccept rfl])
  · obtain ⟨a, ha⟩ := exec_eq_whenSelected s hf hi
    rw [ha, whenSelected_refused a hne]

/-! ### Output formats (R56, R58) -/

theorem kind_ne_three (e : Event) : e.kind ≠ 3 := by
  cases e <;> simp [Event.kind]

/-- A channel value below 2^11 leaves the upper bits of its container 0. -/
theorem chanWord_fields (c : Chan) : (chanWord c).extractLsb' 11 5 = 0 ∧ (chanWord c).extractLsb' 0 11 = c := by
  have hc : (chanWord c).toNat = c.toNat := by simp only [chanWord, BitVec.toNat_setWidth]; omega
  constructor <;> apply BitVec.eq_of_toNat_eq <;> rw [BitVec.extractLsb'_toNat, hc]
  · rw [Nat.shiftRight_eq_div_pow, Nat.div_eq_of_lt c.isLt]; rfl
  · exact Nat.mod_eq_of_lt c.isLt

/-- Settles O56. -/
theorem outputFormatsHaveNoSpareValues : Obligations.OutputFormatsHaveNoSpareValues :=
  ⟨chanWord_fields, kind_ne_three, fun _ _ => ⟨rfl, rfl⟩, fun _ _ _ => rfl⟩

end Sys2Proof.Machine

/-! PROOFS. Family 40_frame_decoder.md: each operation on an accepted byte (R68 to R77), RESET and IDLE (R81, R82), which
edge emits and what (R74, R79, R84), whole cycles of the stream (R72, R83), and copied timestamps (R80). -/

namespace Sys2Proof.Machine

/-! ### ACCEPT (R67) -/

/-- Settles O22: with a byte presented ACCEPT is the step, and the step commutes with the document's `accept`. -/
theorem acceptRefinesTheDocument : Obligations.AcceptRefinesTheDocument := by
  intro s x rest hs hin
  obtain ⟨t, hstep, ht, htin, hacc⟩ := step_refines_acceptByte hs hin
  have hexec : exec .accept s = .next t := (execAccept_eq (presents_of_cons hin)).trans hstep
  obtain ⟨hphase, hev⟩ := Prod.mk.inj hacc
  exact ⟨t, hexec, ht, hphase, hev, htin, draws_of_performs (performs_of_exec hexec) (performed_ne_reset hexec nofun)⟩

/-! ### Each operation on an accepted byte (R68 to R77) -/

/-- The operation selected is the step. -/
theorem exec_of_fetch {s : State} {i : Instr} (h : s.fetch = i) : exec i s = step s := by
  rw [step, h]

/-- A selected operation that ends a clock edge at `u` consumes the presented cycle (R41). -/
theorem exec_of_step {s u : State} {i : Instr} {o : Output} {c : PortCycle} {rest : List PortCycle}
    (hf : s.fetch = i) (hstep : step s = .next (u.finish o)) (hin : u.input = c :: rest) :
    exec i s = .next { u with input := rest, out := o } := by
  rw [exec_of_fetch hf, hstep, State.finish, hin, List.tail_cons]

theorem byte_of_cons {s : State} {x : RawByte} {rest : List PortCycle} (h : s.input = PortCycle.ofByte x :: rest) :
    s.port.byte = x.byte := by
  rw [port_of_cons h]; rfl

theorem interval_of_cons {s : State} {x : RawByte} {rest : List PortCycle}
    (h : s.input = PortCycle.ofByte x :: rest) : s.interval = ⟨x.start, x.stop⟩ := by
  rw [State.interval, port_of_cons h]; rfl

/-- Settles O10: the step is the end of a clock edge and nothing else. -/
theorem hdrSkipChangesNothing : Obligations.HdrSkipChangesNothing := by
  intro s x rest hst hc hb hin
  have hp := presents_of_cons hin
  rw [← byte_of_cons hin] at hb ⊢
  have hfetch := fetch_hdrSkip hp hst hb
  refine ⟨?_, hfetch, exec_of_step hfetch (step_hdrSkip hp hst hc hb) hin⟩
  exact (selWord_and_600 _ _ _).trans (by rw [hst]; rfl)

/-- Settles O11: the interval recorded is that of the presented byte. -/
theorem hdrSyncRecordsTheHeader : Obligations.HdrSyncRecordsTheHeader := by
  intro s x rest hst hc hb hin
  have hp := presents_of_cons hin
  rw [← byte_of_cons hin] at hb
  rw [← interval_of_cons hin]
  have hfetch := fetch_hdrSync hp hst hb
  refine ⟨?_, hfetch, exec_of_step hfetch (step_hdrSync hp hst hc hb) hin⟩
  exact (selWord_and_6FF _ _ _).trans (by rw [hst, hb]; rfl)

/-- Settles O12: the byte is read back where it was written, and with `cnt` at most 20 the count does not wrap. -/
theorem collectStoresTheByte : Obligations.CollectStoresTheByte := by
  intro s x rest hst hc hin
  have hp := presents_of_cons hin
  have hlast : s.last = false := last_of_cnt_ne (by omega)
  have hfetch := fetch_collect hp hst hlast
  have hcnt : (s.cnt + 1).toNat = s.cnt.toNat + 1 := cnt_add_one (by omega)
  rw [← byte_of_cons hin]
  refine ⟨?_, hfetch, _, exec_of_step hfetch (step_collect hp hst hc) hin, rfl, hcnt, ?_,
    fun a ha => Memory.read_write_other _ _ ha⟩
  · exact (selWord_and_700 _ _ _).trans (by rw [hst, hlast]; rfl)
  · exact readByte_ok (by omega) (hcnt ▸ Nat.lt_succ_self _) (Memory.read_write_same _ _ _)

/-- Settles O13: the byte is read back at 21, and `cnt` reaches 22. -/
theorem collectLastCompletesTheBuffer : Obligations.CollectLastCompletesTheBuffer := by
  intro s x rest hst hc hin
  have hp := presents_of_cons hin
  have hlast : s.last = true := by simp [State.last, hc]
  have hfetch := fetch_collectLast hp hst hlast
  have hcnt : s.cnt + 1 = 22 := by rw [hc]; rfl
  have hstored : (s.buf.write s.cnt.toNat s.port.byte).read 21 = some s.port.byte := by
    rw [hc]
    exact Memory.read_write_same _ _ _
  have hexec := exec_of_step hfetch (step_collectLast hp hst hc) hin
  rw [hcnt] at hexec
  rw [← byte_of_cons hin]
  refine ⟨?_, hfetch, _, hexec, rfl, ?_, fun a ha => Memory.read_write_other _ _ ha⟩
  · exact (selWord_and_700 _ _ _).trans (by rw [hst, hlast]; rfl)
  · exact readByte_ok (by decide) (Nat.lt_succ_self 21) hstored

/-- Settles O14: the step writes `st` and nothing else. -/
theorem extrasIsConsumedAndForgotten : Obligations.ExtrasIsConsumedAndForgotten := by
  intro s x rest hst hc hin
  have hp := presents_of_cons hin
  have hfetch := fetch_extras hp hst
  rw [← byte_of_cons hin]
  refine ⟨?_, hfetch, exec_of_step hfetch (step_extras hp hst hc) hin⟩
  exact (selWord_and_600 _ _ _).trans (by rw [hst]; rfl)

/-- Settles O16: the step is a resynchronisation (R115). -/
theorem ftrDropDropsTheCycle : Obligations.FtrDropDropsTheCycle := by
  intro s x rest hst hc hb hin
  have hp := presents_of_cons hin
  rw [← byte_of_cons hin] at hb ⊢
  have hfetch := fetch_ftrDrop hp hst hb
  refine ⟨?_, hfetch, exec_of_step hfetch (step_ftrDrop hp hst hc hb) hin⟩
  exact (selWord_and_600 _ _ _).trans (by rw [hst]; rfl)

/-- Settles O17: the step is the end of a clock edge, also on an empty input. -/
theorem idleHoldsAllState : Obligations.IdleHoldsAllState := by
  intro s hr hv
  rw [exec_of_fetch (fetch_idle hr hv), step_idle hr hv]
  rfl

/-- Settles O18: RESET asks for nothing but `rst`, and with `cnt` 0 no byte is readable. -/
theorem resetRestartsFromAnyState : Obligations.ResetRestartsFromAnyState := by
  intro s c rest hin hc
  have hr : s.port.rst = true := by rw [port_of_cons hin]; exact hc
  exact ⟨_, exec_of_step (fetch_reset hr) (step_reset hr) hin, rfl, fun a => readByte_of_cnt_le (Nat.zero_le a)⟩

/-- The payload of 22 listed bytes is their number, whether or not the buffer is in canonical form. -/
theorem payload_of_listed {s : State} {bs : List Byte} (hc : s.cnt = 22) (hlen : bs.length = 22)
    (hbs : ∀ i, i < 22 → s.listed i = bs[i]?) : s.payload = .ok (payloadOf bs) := by
  have hread (j : Nat) (hj : j < 22) : s.buf.read j = some (bs[j]'(by omega)) :=
    (hbs j hj).trans (List.getElem?_eq_getElem _)
  have hbytes := readBytes_eq (s := s) 0 22 fun j hj => by
    rw [Nat.zero_add, hread j hj]
    exact readByte_ok hj (by rw [hc]; exact hj) (hread j hj)
  have hmap : ((List.range 22).map fun j => (s.buf.read (0 + j)).getD 0) = bs := by
    refine List.ext_getElem (by simp [hlen]) fun j hj hj' => ?_
    simp [hread j (by omega)]
  rw [hmap] at hbytes
  rw [State.payload, hbytes]
  rfl

/-! ### Which operation emits, and what (R74, R79, R84) -/

/-- FTR_SYNC puts out the triple, every other operation nothing. -/
theorem events_of_performs {i : Instr} {s t : State} (h : Performs s i t) :
    (i = .ftrSync ∧ ∃ p, t.out.events = triple s.hdr s.interval p) ∨ (i ≠ .ftrSync ∧ t.out.events = []) := by
  cases h with
  | ftrSync p => exact .inl ⟨rfl, p, rfl⟩
  | unpack row p l => cases row <;> exact .inr ⟨nofun, rfl⟩
  | _ => exact .inr ⟨nofun, rfl⟩

theorem triple_ne_nil (h f : TimeInterval) (p : Payload) : triple h f p ≠ [] :=
  List.cons_ne_nil _ _

theorem of_selectOp_eq_ftrSync {st : FrameState} {l : Bool} {b : Byte} (h : (selectOp st l b).toInstr = .ftrSync) :
    st = .awaitingFooter ∧ b = 0x00#8 := by
  cases st with
  | awaitingHeader => rw [selectOp] at h; split at h <;> cases h
  | collectingChannels => cases l <;> cases h
  | awaitingExtras => cases h
  | awaitingFooter =>
    rw [selectOp] at h
    split at h
    · exact ⟨rfl, ‹_›⟩
    · cases h

/-- FTR_SYNC is selected by a byte 0x00 in AwaitingFooter only (R61). -/
theorem of_fetch_eq_ftrSync {s : State} (h : s.fetch = .ftrSync) :
    s.presents = true ∧ s.st = .awaitingFooter ∧ s.port.byte = 0x00#8 := by
  cases hr : s.port.rst with
  | true => rw [fetch_reset hr] at h; cases h
  | false =>
    cases hv : s.port.inValid with
    | false => rw [fetch_idle hr hv] at h; cases h
    | true =>
      have hp := presents_of_port hr hv
      rw [fetch_of_presents hp] at h
      exact ⟨hp, of_selectOp_eq_ftrSync h⟩

/-- Only FTR_SYNC, or ACCEPT performing it, puts out events, and they are the triple. -/
theorem events_of_exec {i : Instr} {s t : State} (h : exec i s = .next t) :
    t.out.events = [] ∨
      (s.fetch = .ftrSync ∧ (i = .ftrSync ∨ i = .accept) ∧ ∃ p, t.out.events = triple s.hdr s.interval p) := by
  obtain ⟨hstep, hi⟩ | ⟨l, rfl⟩ := edge_of_exec h
  · obtain ⟨hf, hev⟩ | ⟨-, hev⟩ := events_of_performs (performs_of_edge (edge_of_step hstep))
    · exact .inr ⟨hf, hi.imp (·.trans hf) And.left, hev⟩
    · exact .inl hev
  · exact .inl rfl

/-- Settles O15: the 22 bytes listed are the payload; and only FTR_SYNC puts out events. -/
theorem ftrSyncEmitsTheFrame : Obligations.FtrSyncEmitsTheFrame := by
  refine ⟨fun s x rest bs hst hc hb hlen hbs hin => ?_, fun i s t h hne => ?_⟩
  · have hp := presents_of_cons hin
    rw [← byte_of_cons hin] at hb
    have hfetch := fetch_ftrSync hp hst hb
    have hstep := step_ftrSync hp hst hc hb (payload_of_listed hc hlen hbs)
    rw [interval_of_cons hin] at hstep
    refine ⟨?_, hfetch, _, exec_of_step hfetch hstep hin, rfl, rfl⟩
    exact (selWord_and_6FF _ _ _).trans (by rw [hst, hb]; rfl)
  · obtain hev | ⟨hf, hi, -⟩ := events_of_exec h
    · exact absurd hev hne
    · obtain ⟨-, hst, hb⟩ := of_fetch_eq_ftrSync hf
      exact ⟨hst, hb, hi⟩

/-- Settles O36: the events of FTR_SYNC are the triple, and it is selected by a byte 0x00 in AwaitingFooter only. -/
theorem eventsAreNoneOrOneTriple : Obligations.EventsAreNoneOrOneTriple := by
  intro i s t h
  obtain hev | ⟨hf, -, p, hev⟩ := events_of_exec h
  · exact .inl hev
  · obtain ⟨hp, hst, hb⟩ := of_fetch_eq_ftrSync hf
    exact .inr ⟨hst, hp, hb, _, _, _, _, _, length_unpackAll p, hev⟩

/-- A byte presented under the invariant is accepted: the step is a clock edge and leaves the rest presented. -/
theorem edge_of_byte {s : State} {x : RawByte} {rest : List PortCycle} (hs : s.Inv)
    (hin : s.input = PortCycle.ofByte x :: rest) : ∃ t, step s = .next t ∧ t.Inv ∧ t.input = rest ∧ Edge s t := by
  obtain ⟨t, ht, hinv, htin, -⟩ := step_refines_acceptByte hs hin
  exact ⟨t, ht, hinv, htin, edge_of_step ht⟩

/-- Settles O29: the FrameState edge by edge; events by whether FTR_SYNC is selected. -/
theorem transitionTableIsComplete : Obligations.TransitionTableIsComplete := by
  intro s x rest hs hin
  have hp := presents_of_cons hin
  obtain ⟨t, ht, -, -, hedge⟩ := edge_of_byte hs hin
  rw [← byte_of_cons hin]
  refine ⟨t, ht, ?_, fun hne => ?_, fun ⟨hst, hb⟩ => ?_⟩
  · cases hedge with
    | reset hr => simp [State.presents, hr] at hp
    | idle hr hv => simp [State.presents, hv] at hp
    | hdrSync _ hst hc hb => simp [hst, hb]
    | hdrSkip _ hst hc hb => simp [hst, hb]
    | collect _ hst hc u ha =>
      have hne : s.cnt ≠ 21 := fun he => by simp [he] at hc
      rw [hst]
      exact ((st_of_append ha).trans hst).trans (if_neg hne).symm
    | collectLast _ hst hc u ha => simp [hst, hc]
    | extras _ hst hc => simp [hst]
    | ftrSync _ hst hc hb p hpl => simp [hst]
    | ftrDrop _ hst hc hb => simp [hst]
  · obtain hev | ⟨hf, -⟩ := events_of_exec ht
    · exact absurd hev hne
    · obtain ⟨-, hst, hb⟩ := of_fetch_eq_ftrSync hf
      exact ⟨hst, hb⟩
  · obtain ⟨-, p, hev⟩ | ⟨hf, -⟩ := events_of_performs (performs_of_edge hedge)
    · rw [hev]; exact triple_ne_nil _ _ _
    · exact absurd (fetch_ftrSync hp hst hb) hf

theorem outPort_of_fetch_ne {s : State} (h : s.fetch ≠ .ftrSync) : s.outPort = ⟨false, none⟩ :=
  if_neg (by simp [h])

theorem outPort_of_ftrSync {s : State} {p : Payload} (hf : s.fetch = .ftrSync) (hl : s.legal = true)
    (hpl : s.payload = .ok p) : s.outPort = ⟨true, some (outRecord s.hdr s.interval p)⟩ := by
  simp [State.outPort, hf, hl, hpl]

/-- FTR_SYNC that answers found its 22 bytes, in a legal state. -/
theorem execFtrSync_next {s t : State} (h : execFtrSync s = .next t) :
    s.legal = true ∧ ∃ p, s.payload = .ok p ∧ t = s.resync.finish ⟨triple s.hdr s.interval p, allLanes p⟩ := by
  obtain ⟨-, hl, h⟩ := onByte_next h
  obtain ⟨p, hpl, h⟩ := orFault_next h
  cases h
  exact ⟨hl, p, hpl, rfl⟩

/-- Settles O51: by whether the step is FTR_SYNC, whose record serialised is the triple. -/
theorem outputPortCarriesTheTriple : Obligations.OutputPortCarriesTheTriple := by
  intro s t h
  by_cases hf : s.fetch = .ftrSync
  · rw [← exec_of_fetch hf] at h
    obtain ⟨hl, p, hpl, rfl⟩ := execFtrSync_next h
    rw [outPort_of_ftrSync hf hl hpl]
    refine ⟨iff_of_true rfl (triple_ne_nil _ _ _), iff_of_true rfl rfl, fun r hr => ?_⟩
    cases hr
    rfl
  · obtain hev | ⟨hf', -⟩ := events_of_exec h
    · simp [outPort_of_fetch_ne hf, hev]
    · exact absurd hf' hf

/-! ### Runs -/

theorem run_succ_some {n : Nat} {s t : State} {ev : List Event} (h : run (n + 1) s = some (t, ev)) :
    ∃ u ev', step s = .next u ∧ run n u = some (t, ev') ∧ ev = u.out.events ++ ev' := by
  rw [run] at h
  split at h
  · next u hu =>
    obtain ⟨⟨_, ev'⟩, hrun, he⟩ := Option.map_eq_some_iff.1 h
    cases he
    exact ⟨u, ev', hu, hrun, rfl⟩
  · cases h
  · cases h

/-- Settles O42, by induction on the number of steps: each adds nothing or one triple. -/
theorem runEventsAreTriples : Obligations.RunEventsAreTriples := by
  intro n
  induction n with
  | zero =>
    intro s t ev h
    cases h
    exact ⟨0, rfl⟩
  | succ n ih =>
    intro s t ev h
    obtain ⟨u, ev', hstep, hrun, rfl⟩ := run_succ_some h
    obtain ⟨k, hk⟩ := ih u t ev' hrun
    obtain hev | ⟨-, -, p, hev⟩ := events_of_exec hstep
    · exact ⟨k, by rw [hev, List.nil_append, hk]⟩
    · refine ⟨k + 1, ?_⟩
      rw [hev, List.map_append, hk, List.replicate_succ, List.flatten_cons]
      rfl

/-- A stream without the header marker only skips (R83 (a)). -/
theorem run_of_no_headerMarker {s : State} {xs : List RawByte} (hb : s.atBoundary) (hx : ∀ x ∈ xs, x.byte ≠ 0x0F#8)
    (hin : s.input = xs.map PortCycle.ofByte) : ∃ t, run xs.length s = some (t, []) ∧ t.core = s.core := by
  induction xs generalizing s with
  | nil => exact ⟨s, rfl, rfl⟩
  | cons x xs ih =>
    obtain ⟨hst, hc⟩ := hb
    obtain ⟨hxb, hxs⟩ := List.forall_mem_cons.1 hx
    have hstep := step_hdrSkip (presents_of_cons hin) hst hc (by rwa [byte_of_cons hin])
    obtain ⟨t, hrun, hcore⟩ := ih (s := s.finish .silent) ⟨hst, hc⟩ hxs (by rw [State.finish_input, hin]; rfl)
    exact ⟨t, by rw [List.length_cons, run_succ _ hstep, hrun]; rfl, hcore⟩

/-- Settles O41: every step of the run is HDR_SKIP. -/
theorem noHeaderByteNoEvent : Obligations.NoHeaderByteNoEvent :=
  fun s xs _ hb hx => run_of_no_headerMarker (s := s.feed xs) hb hx (s.feed_input xs)

/-! ### The position along a stream (R19, R20) -/

theorem pos_eq_zero_iff (s : State) : s.pos = 0 ↔ s.st = .awaitingHeader := by
  cases hst : s.st with
  | awaitingHeader => simp [pos_awaitingHeader hst]
  | collectingChannels => simp [pos_collecting hst]
  | awaitingExtras => simp [pos_awaitingExtras hst]
  | awaitingFooter => simp [pos_awaitingFooter hst]

theorem pos_le_of_inv {s : State} (hs : s.Inv) : s.pos ≤ 24 := by
  cases hst : s.st with
  | awaitingHeader => simp [pos_awaitingHeader hst]
  | collectingChannels =>
    have hc := legal_collecting hst hs.1
    rw [pos_collecting hst]
    omega
  | awaitingExtras => simp [pos_awaitingExtras hst]
  | awaitingFooter => simp [pos_awaitingFooter hst]

@[simp] theorem State.feed_pos (s : State) (xs : List RawByte) : (s.feed xs).pos = s.pos := rfl

/-- Before position 24 nothing is emitted. -/
theorem events_of_pos_ne {s t : State} (h : step s = .next t) (hpos : s.pos ≠ 24) : t.out.events = [] := by
  obtain hev | ⟨hf, -⟩ := events_of_exec h
  · exact hev
  · obtain ⟨-, hst, -⟩ := of_fetch_eq_ftrSync hf
    exact absurd (pos_awaitingFooter hst) hpos

/-- A stream that ends at position 24 at the latest emits nothing. -/
theorem run_silent_of_pos_add_length_le {s : State} {xs : List RawByte} (hs : s.Inv)
    (hin : s.input = xs.map PortCycle.ofByte) (hlen : s.pos + xs.length ≤ 24) :
    ∃ t, run xs.length s = some (t, []) := by
  induction xs generalizing s with
  | nil => exact ⟨s, rfl⟩
  | cons x xs ih =>
    rw [List.length_cons] at hlen
    obtain ⟨u, hstep, hu, huin, hedge⟩ := edge_of_byte hs hin
    have hpos : u.pos ≤ s.pos + 1 := by
      rw [pos_of_edge (presents_of_cons hin) hedge]
      split <;> split <;> omega
    obtain ⟨t, hrun⟩ := ih hu huin (by omega)
    exact ⟨t, by rw [List.length_cons, run_succ _ hstep, hrun, events_of_pos_ne hstep (by omega)]; rfl⟩

/-- Settles O43: at a boundary the position is 0. -/
theorem noEventBeforeTheTwentyFifthByte : Obligations.NoEventBeforeTheTwentyFifthByte := by
  intro s xs hs hb hlen
  have hpos : s.pos = 0 := pos_awaitingHeader hb.1
  exact run_silent_of_pos_add_length_le (inv_feed hs xs) (s.feed_input xs) (by rw [State.feed_pos]; omega)

/-- Off the boundary each byte moves the position on by one, up to the wrap at 25. -/
theorem run_pos_of_pos_ne_zero {s : State} {xs : List RawByte} (hs : s.Inv)
    (hin : s.input = xs.map PortCycle.ofByte) (hpos : s.pos ≠ 0) (hlen : s.pos + xs.length ≤ 25) :
    ∃ t ev, run xs.length s = some (t, ev) ∧
      t.pos = if s.pos + xs.length = 25 then 0 else s.pos + xs.length := by
  have hle := pos_le_of_inv hs
  induction xs generalizing s with
  | nil => exact ⟨s, [], rfl, (if_neg (by rw [List.length_nil]; omega)).symm⟩
  | cons x xs ih =>
    rw [List.length_cons] at hlen
    obtain ⟨u, hstep, hu, huin, hedge⟩ := edge_of_byte hs hin
    have hupos := pos_of_edge (presents_of_cons hin) hedge
    rw [if_neg hpos] at hupos
    by_cases h24 : s.pos = 24
    · obtain rfl : xs = [] := List.length_eq_zero_iff.1 (by omega)
      rw [if_pos h24] at hupos
      exact ⟨u, _, run_succ 0 hstep, by simp [hupos, h24]⟩
    · rw [if_neg h24] at hupos
      obtain ⟨t, ev, hrun, htpos⟩ := ih hu huin (by omega) (by omega) (by omega)
      refine ⟨t, u.out.events ++ ev, by rw [List.length_cons, run_succ _ hstep, hrun]; rfl, ?_⟩
      rw [htpos, hupos, List.length_cons, Nat.add_assoc, Nat.add_comm 1]

/-- Settles O44: the position is 0 in AwaitingHeader only, and it wraps at 25 only. -/
theorem boundaryIsReachedWithinOneCycle : Obligations.BoundaryIsReachedWithinOneCycle := by
  intro s xs hs hst hlen
  have hle := pos_le_of_inv hs
  have hpos : s.pos ≠ 0 := fun h => hst ((pos_eq_zero_iff s).1 h)
  obtain ⟨t, ev, hrun, htpos⟩ :=
    run_pos_of_pos_ne_zero (inv_feed hs xs) (s.feed_input xs) hpos (by rw [State.feed_pos]; omega)
  refine ⟨t, ev, hrun, ?_⟩
  rw [← pos_eq_zero_iff, htpos, State.feed_pos]
  split <;> omega

/-! ### Whole cycles, over the document's state (R67, R72) -/

theorem acceptAll_append (ph : Phase) (xs ys : List RawByte) :
    acceptAll ph (xs ++ ys) =
      ((acceptAll (acceptAll ph xs).1 ys).1, (acceptAll ph xs).2 ++ (acceptAll (acceptAll ph xs).1 ys).2) := by
  induction xs generalizing ph with
  | nil => rfl
  | cons x xs ih => simp only [List.cons_append, acceptAll, ih, List.append_assoc]

/-- The document's state when the bytes `bs` have been collected: 22 of them await the extras byte. -/
def Phase.collected (h : TimeInterval) (bs : List Byte) : Phase :=
  if bs.length = 22 then .awaitingExtras h bs else .collecting h bs

theorem collected_of_ne {h : TimeInterval} {bs : List Byte} (hn : bs.length ≠ 22) :
    Phase.collected h bs = .collecting h bs := if_neg hn

theorem collected_of_eq {h : TimeInterval} {bs : List Byte} (hn : bs.length = 22) :
    Phase.collected h bs = .awaitingExtras h bs := if_pos hn

theorem acceptByte_collecting (h : TimeInterval) (bs : List Byte) (x : RawByte) :
    acceptByte (.collecting h bs) x = (.collected h (bs ++ [x.byte]), []) := by
  rw [acceptByte, Phase.collected]
  split <;> rfl

/-- Up to the 22nd, channel bytes are collected in arrival order and nothing is emitted (R72). -/
theorem acceptAll_collected (h : TimeInterval) (bs : List Byte) (ds : List RawByte) (hn : bs.length + ds.length ≤ 22) :
    acceptAll (.collected h bs) ds = (.collected h (bs ++ ds.map RawByte.byte), []) := by
  induction ds generalizing bs with
  | nil => simp [acceptAll]
  | cons d ds ih =>
    rw [List.length_cons] at hn
    rw [acceptAll, collected_of_ne (by omega), acceptByte_collecting,
      ih _ (by rw [List.length_append, List.length_singleton]; omega)]
    simp

/-- A header byte and up to 22 channel bytes. -/
theorem acceptAll_header_channels {h : RawByte} {ds : List RawByte} (hb : h.byte = 0x0F#8) (hn : ds.length ≤ 22) :
    acceptAll .awaitingHeader (h :: ds) = (.collected ⟨h.start, h.stop⟩ (ds.map RawByte.byte), []) := by
  rw [acceptAll, acceptByte_headerMarker h hb, ← collected_of_ne (by decide), acceptAll_collected _ _ _ (by simpa)]
  rfl

/-- The extras byte is accepted and forgotten, so the footer test decides (R75). -/
theorem acceptAll_extras_footer (h : TimeInterval) (bs : List Byte) (e f : RawByte) :
    acceptAll (.awaitingExtras h bs) [e, f] = acceptByte (.awaitingFooter h bs) f := by
  simp only [acceptAll, show acceptByte (.awaitingExtras h bs) e = (.awaitingFooter h bs, []) from rfl,
    List.nil_append, List.append_nil]

/-- One cycle: its triple if the footer test passes, else nothing. -/
theorem acceptAll_cycle {h e f : RawByte} {ds : List RawByte} (hb : h.byte = 0x0F#8) (hn : ds.length = 22) :
    acceptAll .awaitingHeader (cycleBytes h ds e f) = (.awaitingHeader,
      if f.byte = 0x00#8 then triple ⟨h.start, h.stop⟩ ⟨f.start, f.stop⟩ (payloadOf (ds.map RawByte.byte)) else []) := by
  rw [cycleBytes, ← List.cons_append, acceptAll_append, acceptAll_header_channels hb hn.le,
    collected_of_eq (by simpa using hn), acceptAll_extras_footer]
  by_cases hf : f.byte = 0x00#8
  · rw [acceptByte_footerMarker _ _ _ hf, if_pos hf, List.nil_append]
  · rw [acceptByte_noFooterMarker _ _ _ hf, if_neg hf, List.nil_append]

theorem length_cycleBytes {h e f : RawByte} {ds : List RawByte} (hn : ds.length = 22) :
    (cycleBytes h ds e f).length = 25 := by
  simp [cycleBytes, hn]

theorem atBoundary_of_phase {s : State} (hs : s.Inv) (hph : s.phase = .awaitingHeader) : s.atBoundary := by
  cases hst : s.st with
  | awaitingHeader => exact ⟨hst, legal_awaitingHeader hst hs.1⟩
  | collectingChannels => rw [phase_collecting hst] at hph; cases hph
  | awaitingExtras => rw [phase_awaitingExtras hst] at hph; cases hph
  | awaitingFooter => rw [phase_awaitingFooter hst] at hph; cases hph

/-- A stream that the document's `accept` takes from boundary to boundary. -/
theorem run_of_acceptAll_boundary {s : State} {xs : List RawByte} {ev : List Event} (hs : s.Inv) (hb : s.atBoundary)
    (hacc : acceptAll .awaitingHeader xs = (.awaitingHeader, ev)) :
    ∃ t, t.Inv ∧ t.atBoundary ∧ run xs.length (s.feed xs) = some (t, ev) := by
  obtain ⟨t, ev', hrun, ht, hfold⟩ := runIsTheFoldOfAccept s xs hs
  rw [phase_awaitingHeader hb.1, hacc] at hfold
  obtain ⟨hph, rfl⟩ := Prod.mk.inj hfold
  exact ⟨t, ht, atBoundary_of_phase ht hph, hrun⟩

/-- Settles O38: the run is the fold of `accept`, which takes the cycle phase by phase. -/
theorem oneCycleDecodesOneFrame : Obligations.OneCycleDecodesOneFrame := by
  intro s h e f ds hs hb hh hn
  have hrun := run_of_acceptAll_boundary hs hb (acceptAll_cycle (e := e) (f := f) hh hn)
  rwa [length_cycleBytes hn] at hrun

/-- Settles O40: the fold of `accept` over two cycles. -/
theorem recoveryAfterOneFailedFooter : Obligations.RecoveryAfterOneFailedFooter := by
  intro s h e f h' e' f' ds ds' hs hb hh hn hf hh' hn' hf'
  have hacc := acceptAll_append .awaitingHeader (cycleBytes h ds e f) (cycleBytes h' ds' e' f')
  rw [acceptAll_cycle hh hn, acceptAll_cycle hh' hn', if_neg hf, if_pos hf', List.nil_append] at hacc
  obtain ⟨t, -, ht, hrun⟩ := run_of_acceptAll_boundary hs hb hacc
  rw [List.length_append, length_cycleBytes hn, length_cycleBytes hn'] at hrun
  exact ⟨t, ht, hrun⟩

/-- What the document's state says of a block that has collected `bs`. -/
theorem of_phase_eq_collected {s : State} {h : TimeInterval} {bs : List Byte} (hph : s.phase = .collected h bs) :
    s.hdr = h ∧ s.bytes = bs ∧ s.st = if bs.length = 22 then .awaitingExtras else .collectingChannels := by
  unfold Phase.collected at hph
  cases hst : s.st with
  | awaitingHeader => rw [phase_awaitingHeader hst] at hph; split at hph <;> cases hph
  | collectingChannels =>
    rw [phase_collecting hst] at hph
    split at hph
    · cases hph
    · next hn => cases hph; exact ⟨rfl, rfl, (if_neg hn).symm⟩
  | awaitingExtras =>
    rw [phase_awaitingExtras hst] at hph
    split at hph
    · next hn => cases hph; exact ⟨rfl, rfl, (if_pos hn).symm⟩
    · cases hph
  | awaitingFooter => rw [phase_awaitingFooter hst] at hph; split at hph <;> cases hph

theorem readByte_eq_bytes {s : State} (hs : s.Inv) {i : Nat} (h22 : i < 22) (hi : i < s.bytes.length) :
    s.readByte i = .ok s.bytes[i] := by
  rw [readByte_of_inv hs h22 (by simpa using hi)]
  simp [State.bytes]

/-- Settles O37: the run is the fold of `accept`, and its end says what the block holds. -/
theorem collectedBytesAndHeaderAreHeld : Obligations.CollectedBytesAndHeaderAreHeld := by
  intro s h ds hs hb hh hn
  obtain ⟨t, ev, hrun, ht, hfold⟩ := runIsTheFoldOfAccept s (h :: ds) hs
  rw [phase_awaitingHeader hb.1, acceptAll_header_channels hh hn] at hfold
  obtain ⟨hph, rfl⟩ := Prod.mk.inj hfold
  obtain ⟨hhdr, hbytes, hst⟩ := of_phase_eq_collected hph
  rw [List.length_map] at hst
  refine ⟨t, hrun, ht, hhdr, ?_, fun i hi => ?_, hst⟩
  · rw [← State.length_bytes, hbytes, List.length_map]
  · rw [readByte_eq_bytes ht (by omega) (by simpa [hbytes] using hi)]
    simp [hbytes]

/-- The state after reset meets the invariant whatever is presented to it. -/
theorem inv_reset_input (xs : List PortCycle) : ({ State.reset with input := xs } : State).Inv :=
  inv_of_same_buf resetStateMeetsInvariant.1 rfl rfl le_rfl

/-- Settles O46: at a boundary the document's state is the one after reset, and nothing else can be observed. -/
theorem boundaryIsLikeReset : Obligations.BoundaryIsLikeReset := by
  intro n s hs hb
  obtain ⟨t, v, ev, hrun, vrun, -⟩ := staleStateIsUnobservable n s { State.reset with input := s.input } hs
    (inv_reset_input s.input) (phase_awaitingHeader hb.1) rfl
  exact ⟨t, v, ev, hrun, vrun⟩

/-! ### Copied timestamps (R6, R80) -/

/-- Renaming leaves what the presented cycle selects by; an empty input presents nothing before and after. -/
theorem port_rename (f : TS → TS) (s : State) :
    (s.rename f).port.rst = s.port.rst ∧ (s.rename f).port.inValid = s.port.inValid ∧
      (s.rename f).port.byte = s.port.byte := by
  cases hin : s.input <;> simp [State.port, State.rename, hin, PortCycle.rename]

@[simp] theorem State.rename_port_rst (f : TS → TS) (s : State) : (s.rename f).port.rst = s.port.rst :=
  (port_rename f s).1

@[simp] theorem State.rename_port_inValid (f : TS → TS) (s : State) : (s.rename f).port.inValid = s.port.inValid :=
  (port_rename f s).2.1

@[simp] theorem State.rename_port_byte (f : TS → TS) (s : State) : (s.rename f).port.byte = s.port.byte :=
  (port_rename f s).2.2

@[simp] theorem State.rename_presents (f : TS → TS) (s : State) : (s.rename f).presents = s.presents := by
  simp [State.presents]

/-- The interval of a presented byte is renamed. (That of no byte, which nothing uses, is not.) -/
theorem interval_rename (f : TS → TS) {s : State} (hp : s.presents = true) :
    (s.rename f).interval = TimeInterval.rename f s.interval := by
  cases hin : s.input with
  | nil => simp [State.presents, port_of_nil hin, PortCycle.quiet] at hp
  | cons c cs => simp [State.interval, State.port, State.rename, hin, PortCycle.rename, TimeInterval.rename]

/-- The buffer's reads depend on `cnt` and the bytes listed only. -/
theorem readBytes_congr {s u : State} (hc : s.cnt = u.cnt) (hb : s.buf = u.buf) (i n : Nat) :
    s.readBytes i n = u.readBytes i n := by
  have hread (j : Nat) : s.readByte j = u.readByte j := by rw [State.readByte, State.readByte, hc, hb]
  induction n generalizing i with
  | zero => rfl
  | succ n ih => rw [State.readBytes, State.readBytes, hread, ih]

theorem payload_rename (f : TS → TS) (s : State) : (s.rename f).payload = s.payload :=
  congrArg (Except.map payloadOf) (readBytes_congr (s := s.rename f) rfl rfl 0 22)

/-- The end of a clock edge commutes with renaming. -/
theorem rename_finish (f : TS → TS) (s : State) (o : Output) :
    (s.finish o).rename f = (s.rename f).finish ⟨o.events.map (Event.rename f), o.lanes⟩ := by
  simp [State.finish, State.rename, List.map_tail]

theorem rename_recordHeader (f : TS → TS) {s : State} (hp : s.presents = true) :
    s.recordHeader.rename f = (s.rename f).recordHeader := by
  rw [State.recordHeader, State.recordHeader, interval_rename f hp]; rfl

/-- Settles O49, edge by edge: renaming changes no guard and commutes with every update. -/
theorem timestampsAreOnlyCopied : Obligations.TimestampsAreOnlyCopied := by
  intro f s t hr h
  cases edge_of_step h with
  | reset hr' => rw [hr] at hr'; cases hr'
  | idle _ hv => rw [rename_finish]; exact step_idle (by simpa) (by simpa)
  | hdrSync hp hst hc hb =>
    have hheader : (s.recordHeader.goTo .collectingChannels).rename f =
        (s.rename f).recordHeader.goTo .collectingChannels :=
      congrArg (State.goTo · .collectingChannels) (rename_recordHeader f hp)
    rw [rename_finish, hheader]
    exact step_hdrSync (by simpa) hst hc (by simpa)
  | hdrSkip hp hst hc hb => rw [rename_finish]; exact step_hdrSkip (by simpa) hst hc (by simpa)
  | collect hp hst hc u ha =>
    obtain ⟨-, rfl⟩ := append_ok ha
    rw [rename_finish, step_collect (s := s.rename f) (by simpa) hst hc, State.rename_port_byte]
    rfl
  | collectLast hp hst hc u ha =>
    obtain ⟨-, rfl⟩ := append_ok ha
    rw [rename_finish, step_collectLast (s := s.rename f) (by simpa) hst hc, State.rename_port_byte]
    rfl
  | extras hp hst hc => rw [rename_finish]; exact step_extras (by simpa) hst hc
  | ftrSync hp hst hc hb p hpl =>
    rw [rename_finish, step_ftrSync (s := s.rename f) (by simpa) hst hc (by simpa) ((payload_rename f s).trans hpl),
      interval_rename f hp]
    rfl
  | ftrDrop hp hst hc hb => rw [rename_finish]; exact step_ftrDrop (by simpa) hst hc (by simpa)

end Sys2Proof.Machine

/-! PROOFS. Family 41_bit_unpacker.md: the payload cut into its 22 bytes or its sixteen channels (R34, R86), the channel
extractions (R87 to R103), UNPACK and its inverse (R105 to R108). -/

namespace Sys2Proof.Machine

/-! ### A word cut into equal slices

A payload is cut into bytes of 8 bits (R34) and into channels of 11 bits (R86): both are instances of this. -/

/-- Bit `n` of a word lies in slice `n / w`, at place `n % w`. -/
theorem getLsbD_eq_getLsbD_slice {N w : Nat} (hw : 0 < w) (x : BitVec N) (n : Nat) :
    x.getLsbD n = (x.extractLsb' (w * (n / w)) w).getLsbD (n % w) := by
  rw [BitVec.getLsbD_extractLsb', decide_eq_true (Nat.mod_lt n hw), Bool.true_and, Nat.div_add_mod]

/-- Words whose slices are equal are equal. -/
theorem eq_of_slices_eq {N w : Nat} {x y : BitVec N} (hw : 0 < w)
    (h : ∀ k, w * k < N → x.extractLsb' (w * k) w = y.extractLsb' (w * k) w) : x = y := by
  refine BitVec.eq_of_getLsbD_eq fun n hn => ?_
  rw [getLsbD_eq_getLsbD_slice hw x, getLsbD_eq_getLsbD_slice hw y, h _ ((Nat.mul_div_le n w).trans_lt hn)]

/-- A slice inside a word is a digit of its number. -/
theorem slice_ofNat {N w k : Nat} (v : Nat) (h : w * k + w ≤ N) :
    (BitVec.ofNat N v).extractLsb' (w * k) w = BitVec.ofNat w (v / (2 ^ w) ^ k) := by
  refine BitVec.eq_of_getLsbD_eq fun i hi => ?_
  rw [← pow_mul, BitVec.getLsbD_extractLsb', BitVec.getLsbD_ofNat, BitVec.getLsbD_ofNat, Nat.testBit_div_two_pow,
    decide_eq_true (show w * k + i < N by omega), Bool.true_and, Nat.add_comm i]

/-! ### The bytes of a payload (R34) -/

/-- Byte `j` of the packed value of 22 bytes is the j-th of them. -/
theorem payloadByte_payloadOf {bs : List Byte} {j : Nat} (hlen : bs.length = 22) (hj : j < bs.length) :
    payloadByte (payloadOf bs) j = bs[j] := by
  rw [payloadByte, payloadOf, slice_ofNat _ (by omega)]
  exact BitVec.eq_of_toNat_eq ((BitVec.toNat_ofNat _ _).trans (leNat_byte bs j hj))

@[simp] theorem length_payloadBytes (p : Payload) : (payloadBytes p).length = 22 := by
  simp [payloadBytes]

@[simp] theorem getElem_payloadBytes (p : Payload) (j : Nat) (hj : j < (payloadBytes p).length) :
    (payloadBytes p)[j] = payloadByte p j := by
  simp [payloadBytes]

theorem payloadBytes_payloadOf {bs : List Byte} (hlen : bs.length = 22) : payloadBytes (payloadOf bs) = bs := by
  refine List.ext_getElem (by rw [length_payloadBytes, hlen]) fun j _ hj => ?_
  rw [getElem_payloadBytes, payloadByte_payloadOf hlen hj]

theorem payloadOf_payloadBytes (p : Payload) : payloadOf (payloadBytes p) = p := by
  refine eq_of_slices_eq (w := 8) (by decide) fun j hj => ?_
  have hj : j < (payloadBytes p).length := by rw [length_payloadBytes]; omega
  exact (payloadByte_payloadOf (length_payloadBytes p) hj).trans (getElem_payloadBytes p j hj)

/-- Bit `n` of the packed value of 22 bytes is bit `n % 8` of byte `n / 8`. -/
theorem getLsbD_payloadOf {bs : List Byte} {n : Nat} (hlen : bs.length = 22) (hn : n / 8 < bs.length) :
    (payloadOf bs).getLsbD n = bs[n / 8].getLsbD (n % 8) := by
  rw [getLsbD_eq_getLsbD_slice (w := 8) (by decide), ← payloadByte_payloadOf hlen hn]
  rfl

/-! ### The channels of a payload (R86) -/

theorem getLsbD_channel (p : Payload) (k : Nat) {m : Nat} (hm : m < 11) :
    (channel p k).getLsbD m = p.getLsbD (11 * k + m) := by
  rw [channel, BitVec.getLsbD_extractLsb', decide_eq_true hm, Bool.true_and]

@[simp] theorem getElem_unpackAll (p : Payload) (k : Nat) (hk : k < (unpackAll p).length) :
    (unpackAll p)[k] = channel p k := by
  simp [unpackAll]

theorem getElem?_unpackAll (p : Payload) {k : Nat} (hk : k < 16) : (unpackAll p)[k]? = some (channel p k) := by
  simp [unpackAll, hk]

/-- Settles O52: bit `m` of channel `k` is bit 11k + m of P. -/
theorem channelBitsComeFromTheirBytes : Obligations.ChannelBitsComeFromTheirBytes := by
  intro bs k m hlen hk hm
  have hbyte : (11 * k + m) / 8 < bs.length := by omega
  refine ⟨channel (payloadOf bs) k, bs[(11 * k + m) / 8], getElem?_unpackAll _ hk, List.getElem?_eq_getElem hbyte, rfl,
    ?_, Nat.le_of_lt_succ (BitVec.isLt _)⟩
  rw [getLsbD_channel _ _ hm, getLsbD_payloadOf hlen hbyte]

/-- Settles O19: UNPACK drives lanes only, and the range of sixteen is evaluated. -/
theorem unpackDrivesSixteenSlices : Obligations.UnpackDrivesSixteenSlices := fun _ _ => rfl

/-! ### The channel extractions (R87 to R103) -/

/-- A read that covers the channel's 11 bits, shifted to its offset and masked, is the channel (R87). -/
theorem channelField_of_read {p : Payload} {k b n o : Nat}
    (hread : payloadRead p b n = p.toNat / 2 ^ (8 * b) % 2 ^ (8 * n)) (hstart : 8 * b + o = 11 * k)
    (hcover : o + 11 ≤ 8 * n) : channelField p b n o = channel p k := by
  refine BitVec.eq_of_getLsbD_eq fun m hm => ?_
  rw [channelField, hread, show 0x7FF = 2 ^ 11 - 1 from rfl, Nat.and_two_pow_sub_one_eq_mod, getLsbD_channel p k hm,
    BitVec.getLsbD_ofNat, Nat.testBit_mod_two_pow, Nat.testBit_shiftRight, Nat.testBit_mod_two_pow,
    Nat.testBit_div_two_pow, show o + m + 8 * b = 11 * k + m by omega, decide_eq_true hm,
    decide_eq_true (show o + m < 8 * n by omega), Bool.true_and, Bool.true_and, Bool.true_and]
  rfl

/-- An extraction from two bytes drives its channel on its own lane and changes nothing else; up to offset 5 the two
bytes hold the whole field (R87). -/
theorem drive_two_bytes (p : Payload) (s : State) {k b o : Nat} (hstart : 8 * b + o = 11 * k) (ho : o ≤ 5) :
    (.next (s.drive [(k, channelField p b 2 o)]) : Answer) =
      .next { s with out := ⟨[], [(k, channel p k)]⟩ } := by
  rw [channelField_of_read (payloadRead_two p b) hstart (by omega)]
  rfl

/-- The same from three bytes, which hold the whole field at every offset (R87). -/
theorem drive_three_bytes (p : Payload) (s : State) {k b o : Nat} (hstart : 8 * b + o = 11 * k) (ho : o ≤ 7) :
    (.next (s.drive [(k, channelField p b 3 o)]) : Answer) =
      .next { s with out := ⟨[], [(k, channel p k)]⟩ } := by
  rw [channelField_of_read (payloadRead_three p b) hstart (by omega)]
  rfl

/-- A field of a byte is bits of P. -/
theorem extractLsb'_payloadByte (p : Payload) (j : Nat) {o m : Nat} (h : o + m ≤ 8) :
    (payloadByte p j).extractLsb' o m = p.extractLsb' (8 * j + o) m := by
  refine BitVec.eq_of_getLsbD_eq fun i hi => ?_
  simp only [payloadByte, BitVec.getLsbD_extractLsb', decide_eq_true (show o + i < 8 by omega), Bool.true_and,
    Nat.add_assoc]

/-- The top `m` bits of a byte and the low `n` bits of the next are consecutive bits of P. -/
theorem slice_of_two_bytes (p : Payload) (j o m n : Nat) (hm : o + m = 8) (hn : n ≤ 8) :
    p.extractLsb' (8 * j + o) (n + m) =
      (payloadByte p (j + 1)).extractLsb' 0 n ++ (payloadByte p j).extractLsb' o m := by
  rw [extractLsb'_payloadByte p j hm.le, extractLsb'_payloadByte p (j + 1) (by omega),
    BitVec.extractLsb'_append_extractLsb'_eq_extractLsb' (by omega)]

/-- The same with a whole byte between. -/
theorem slice_of_three_bytes (p : Payload) (j o m n : Nat) (hm : o + m = 8) (hn : n ≤ 8) :
    p.extractLsb' (8 * j + o) (n + 8 + m) =
      (payloadByte p (j + 2)).extractLsb' 0 n ++ (payloadByte p (j + 1)).extractLsb' 0 8 ++
        (payloadByte p j).extractLsb' o m := by
  rw [← slice_of_two_bytes p (j + 1) 0 8 n rfl hn, extractLsb'_payloadByte p j hm.le,
    BitVec.extractLsb'_append_extractLsb'_eq_extractLsb' (by omega)]

/-- Settles O20: each channel's first byte, offset and field widths are those of its rule. -/
theorem lowEightChannelsAreTheirFields : Obligations.LowEightChannelsAreTheirFields := fun p s =>
  ⟨⟨drive_two_bytes p s (k := 0) rfl (by decide), slice_of_two_bytes p 0 0 8 3 rfl (by decide)⟩,
    ⟨drive_two_bytes p s (k := 1) rfl (by decide), slice_of_two_bytes p 1 3 5 6 rfl (by decide)⟩,
    ⟨drive_three_bytes p s (k := 2) rfl (by decide), slice_of_three_bytes p 2 6 2 1 rfl (by decide)⟩,
    ⟨drive_two_bytes p s (k := 3) rfl (by decide), slice_of_two_bytes p 4 1 7 4 rfl (by decide)⟩,
    ⟨drive_two_bytes p s (k := 4) rfl (by decide), slice_of_two_bytes p 5 4 4 7 rfl (by decide)⟩,
    ⟨drive_three_bytes p s (k := 5) rfl (by decide), slice_of_three_bytes p 6 7 1 2 rfl (by decide)⟩,
    ⟨drive_two_bytes p s (k := 6) rfl (by decide), slice_of_two_bytes p 8 2 6 5 rfl (by decide)⟩,
    ⟨drive_two_bytes p s (k := 7) rfl (by decide), slice_of_two_bytes p 9 5 3 8 rfl (by decide)⟩⟩

/-- Settles O21: each channel's first byte, offset and field widths are those of its rule. -/
theorem highEightChannelsAreTheirFields : Obligations.HighEightChannelsAreTheirFields := fun p s =>
  ⟨⟨drive_two_bytes p s (k := 8) rfl (by decide), slice_of_two_bytes p 11 0 8 3 rfl (by decide)⟩,
    ⟨drive_two_bytes p s (k := 9) rfl (by decide), slice_of_two_bytes p 12 3 5 6 rfl (by decide)⟩,
    ⟨drive_three_bytes p s (k := 10) rfl (by decide), slice_of_three_bytes p 13 6 2 1 rfl (by decide)⟩,
    ⟨drive_two_bytes p s (k := 11) rfl (by decide), slice_of_two_bytes p 15 1 7 4 rfl (by decide)⟩,
    ⟨drive_two_bytes p s (k := 12) rfl (by decide), slice_of_two_bytes p 16 4 4 7 rfl (by decide)⟩,
    ⟨drive_three_bytes p s (k := 13) rfl (by decide), slice_of_three_bytes p 17 7 1 2 rfl (by decide)⟩,
    ⟨drive_two_bytes p s (k := 14) rfl (by decide), slice_of_two_bytes p 19 2 6 5 rfl (by decide)⟩,
    ⟨drive_two_bytes p s (k := 15) rfl (by decide), slice_of_two_bytes p 20 5 3 8 rfl (by decide)⟩⟩

/-! ### Corner cases (R106) -/

theorem channel_twoPow {n : Nat} (hn : n < 176) (k : Nat) :
    channel (BitVec.twoPow 176 n) k = if k = n / 11 then BitVec.twoPow 11 (n % 11) else 0 := by
  refine BitVec.eq_of_getLsbD_eq fun m hm => ?_
  rw [getLsbD_channel _ _ hm, BitVec.getLsbD_twoPow, decide_eq_true hn, Bool.true_and]
  split
  · rw [BitVec.getLsbD_twoPow, decide_eq_true (Nat.mod_lt n (by decide)), Bool.true_and, decide_eq_decide]
    omega
  · rw [show (0 : Chan).getLsbD m = false from BitVec.getLsbD_zero, decide_eq_false_iff_not]
    omega

/-- An operation that acts on each channel by itself acts on the sixteen values one by one. -/
theorem unpackAll_eq_zipWith {p q r : Payload} {g : Chan → Chan → Chan}
    (h : ∀ k, channel r k = g (channel p k) (channel q k)) :
    unpackAll r = List.zipWith g (unpackAll p) (unpackAll q) := by
  rw [unpackAll, unpackAll, unpackAll, List.zipWith_map, List.zipWith_self]
  exact List.map_congr_left fun k _ => h k

/-- The layout has a period of 11 bytes, which is 8 channels. -/
theorem channel_period {half : List Byte} (hlen : half.length = 11) {k : Nat} (hk : k < 8) :
    channel (payloadOf (half ++ half)) (8 + k) = channel (payloadOf (half ++ half)) k := by
  have h22 : (half ++ half).length = 22 := by rw [List.length_append, hlen]
  refine BitVec.eq_of_getLsbD_eq fun m hm => ?_
  have hbyte : (11 * k + m) / 8 < half.length := by omega
  have hshift : 11 * (8 + k) + m = 11 * k + m + 8 * half.length := by omega
  rw [getLsbD_channel _ _ hm, getLsbD_channel _ _ hm, hshift, getLsbD_payloadOf h22 (by omega),
    getLsbD_payloadOf h22 (by omega), Nat.add_mul_mod_self_left]
  simp [Nat.add_mul_div_left, hbyte]

/-- Settles O54: the constant buffers are evaluated, and every other case is a fact about one channel at a time. -/
theorem unpackCornerCases : Obligations.UnpackCornerCases := by
  refine ⟨by decide, by decide, fun n k hn hk => ?_, fun p q => ⟨?_, ?_, ?_⟩, fun half hlen => ?_⟩
  · rw [getElem?_unpackAll _ hk, channel_twoPow hn]
  · exact unpackAll_eq_zipWith fun k => BitVec.extractLsb'_or
  · exact unpackAll_eq_zipWith fun k => BitVec.extractLsb'_and
  · exact unpackAll_eq_zipWith fun k => BitVec.extractLsb'_xor
  · refine List.ext_getElem (by simp [length_unpackAll]) fun k _ hk => ?_
    rw [List.getElem_drop, List.getElem_take, getElem_unpackAll, getElem_unpackAll,
      channel_period hlen (by simp at hk; omega)]

/-! ### pack, the inverse (R107, R108) -/

/-- Channel value `k` of a sequence's sum. -/
theorem leChan_digit (cs : List Chan) (k : Nat) (hk : k < cs.length) : leChan cs / 2048 ^ k % 2048 = cs[k].toNat := by
  induction cs generalizing k with
  | nil => simp at hk
  | cons c cs ih =>
    have hc := c.isLt
    cases k with
    | zero => simp [leChan]; omega
    | succ k =>
      have htail : leChan (c :: cs) / 2048 = leChan cs := by rw [leChan]; omega
      rw [pow_succ', ← Nat.div_div_eq_div_mul, htail, ih k (by simpa using hk), List.getElem_cons_succ]

theorem channel_pack {cs : List Chan} {k : Nat} (hlen : cs.length = 16) (hk : k < cs.length) :
    channel (pack cs) k = cs[k] := by
  rw [channel, pack, slice_ofNat _ (by simp; omega)]
  exact BitVec.eq_of_toNat_eq ((BitVec.toNat_ofNat _ _).trans (leChan_digit cs k hk))

theorem unpackAll_pack {cs : List Chan} (hlen : cs.length = 16) : unpackAll (pack cs) = cs := by
  refine List.ext_getElem (by rw [length_unpackAll, hlen]) fun k _ hk => ?_
  rw [getElem_unpackAll, channel_pack hlen hk]

theorem pack_unpackAll (p : Payload) : pack (unpackAll p) = p := by
  refine eq_of_slices_eq (w := 11) (by decide) fun k hk => ?_
  have hk : k < (unpackAll p).length := by rw [length_unpackAll]; omega
  exact (channel_pack (length_unpackAll p) hk).trans (getElem_unpackAll p k hk)

/-- Settles O53: bytes and channels are the digits of the packed number, and a payload is determined by either. -/
theorem packAndUnpackAreInverse : Obligations.PackAndUnpackAreInverse :=
  ⟨fun _ => unpackAll_pack, pack_unpackAll, payloadOf_payloadBytes, fun _ => payloadBytes_payloadOf⟩

/-- Settles O39: one cycle decodes to UNPACK of its 22 bytes, which are those of `pack`. -/
theorem frameDeliversItsChannels : Obligations.FrameDeliversItsChannels := by
  intro s h e f ds cs hs hb hh hf hlen hds
  have hn : ds.length = 22 := by rw [← List.length_map (as := ds) RawByte.byte, hds, length_payloadBytes]
  obtain ⟨t, -, -, hrun⟩ := oneCycleDecodesOneFrame s h e f ds hs hb hh hn
  rw [if_pos hf, hds, payloadOf_payloadBytes, unpackAll_pack hlen] at hrun
  exact ⟨t, hrun⟩

end Sys2Proof.Machine

/-! PROOFS. Family 70_reset_and_hazards.md: the end of the input (R130), idle cycles in it (R140), and the host's
premise on timestamps (R133). -/

namespace Sys2Proof.Machine

/-! ### The end of the input (R130) -/

/-- With nothing presented the step is IDLE (log 2). -/
theorem step_of_input_nil {s : State} (h : s.input = []) : step s = .next (s.finish .silent) :=
  step_idle (by rw [port_of_nil h]; rfl) (by rw [port_of_nil h]; rfl)

/-- Settles O48, by induction on the number of steps: each is IDLE and leaves the input empty. -/
theorem endOfStreamHoldsForEver : Obligations.EndOfStreamHoldsForEver := by
  intro n
  induction n with
  | zero => exact fun s h => ⟨s, rfl, rfl, h⟩
  | succ n ih =>
    intro s h
    obtain ⟨t, hrun, hcore, hin⟩ := ih (s.finish .silent) (by rw [State.finish_input, h]; rfl)
    exact ⟨t, by rw [run_succ n (step_of_input_nil h), hrun]; rfl, hcore, hin⟩

/-! ### Idle cycles in the input (R81, R140) -/

/-- A step depends on the block's state and the presented cycle only: not on the latest output, nor on what is to be
presented later. -/
theorem step_of_core_eq {s u t : State} {c : PortCycle} {cs ds : List PortCycle} (hcore : s.core = u.core)
    (hs : s.input = c :: cs) (hu : u.input = c :: ds) (h : step s = .next t) :
    ∃ v, step u = .next v ∧ t.core = v.core ∧ t.out = v.out := by
  have hpayload : s.payload = u.payload :=
    congrArg (Except.map payloadOf) (readBytes_congr (congrArg (·.2.1) hcore) (congrArg (·.2.2.1) hcore) 0 22)
  obtain ⟨st, cnt, buf, hdr, sin, sout, draws⟩ := s
  obtain ⟨ust, ucnt, ubuf, uhdr, uin, uout, udraws⟩ := u
  subst hs hu
  cases hcore
  cases edge_of_step h with
  | reset hr => exact ⟨_, step_reset hr, rfl, rfl⟩
  | idle hr hv => exact ⟨_, step_idle hr hv, rfl, rfl⟩
  | hdrSync hp hst hc hb => exact ⟨_, step_hdrSync hp hst hc hb, rfl, rfl⟩
  | hdrSkip hp hst hc hb => exact ⟨_, step_hdrSkip hp hst hc hb, rfl, rfl⟩
  | collect hp hst hc w ha =>
    obtain ⟨-, rfl⟩ := append_ok ha
    exact ⟨_, step_collect hp hst hc, rfl, rfl⟩
  | collectLast hp hst hc w ha =>
    obtain ⟨-, rfl⟩ := append_ok ha
    exact ⟨_, step_collectLast hp hst hc, rfl, rfl⟩
  | extras hp hst hc => exact ⟨_, step_extras hp hst hc, rfl, rfl⟩
  | ftrSync hp hst hc hb p hpl =>
    exact ⟨_, step_ftrSync (s := ⟨_, _, _, _, c :: ds, _, _⟩) hp hst hc hb (hpayload.symm.trans hpl), rfl, rfl⟩
  | ftrDrop hp hst hc hb => exact ⟨_, step_ftrDrop hp hst hc hb, rfl, rfl⟩

/-- Two blocks in the same state, one presented the input and one the input without its idle cycles, come to the same
state with the same events. -/
theorem run_filter_idle {s u : State} {cs : List PortCycle} (hs : s.Inv) (hcore : s.core = u.core)
    (hin : s.input = cs) (uin : u.input = cs.filter fun c => !c.isIdle) :
    ∃ t v ev, run cs.length s = some (t, ev) ∧ run u.input.length u = some (v, ev) ∧ t.core = v.core := by
  induction cs generalizing s u with
  | nil => exact ⟨s, u, [], rfl, by rw [uin]; rfl, hcore⟩
  | cons c cs ih =>
    cases hidle : c.isIdle with
    | true =>
      obtain ⟨hr, hv⟩ : c.rst = false ∧ c.inValid = false := by simpa [PortCycle.isIdle] using hidle
      have hstep := step_idle (s := s) (by rwa [port_of_cons hin]) (by rwa [port_of_cons hin])
      rw [List.filter_cons_of_neg (by simp [hidle])] at uin
      obtain ⟨t, v, ev, hrun, urun, hend⟩ := ih (inv_of_edge hs (edge_of_step hstep)) (s := s.finish .silent) hcore
        (by rw [State.finish_input, hin]; rfl) uin
      exact ⟨t, v, ev, by rw [List.length_cons, run_succ _ hstep, hrun]; rfl, urun, hend⟩
    | false =>
      rw [List.filter_cons_of_pos (by simp [hidle])] at uin
      obtain ⟨s', hstep⟩ := noStepStopsUnderInvariant s hs
      obtain ⟨u', ustep, hcore', hout⟩ := step_of_core_eq hcore hin uin hstep
      have hedge := edge_of_step hstep
      have uin' : u'.input = cs.filter fun c => !c.isIdle := by rw [input_of_edge (edge_of_step ustep), uin]; rfl
      obtain ⟨t, v, ev, hrun, urun, hend⟩ :=
        ih (inv_of_edge hs hedge) hcore' (by rw [input_of_edge hedge, hin]; rfl) uin'
      refine ⟨t, v, s'.out.events ++ ev, ?_, ?_, hend⟩
      · rw [List.length_cons, run_succ _ hstep, hrun]; rfl
      · rw [uin, List.length_cons, run_succ _ ustep, ← uin', urun, hout]; rfl

/-- Settles O47: `withoutIdle` changes nothing but the input. -/
theorem idleCyclesChangeNothing : Obligations.IdleCyclesChangeNothing :=
  fun s hs => run_filter_idle (u := s.withoutIdle) hs rfl rfl rfl

/-! ### The host's premise on timestamps (R133) -/

theorem ordered_cons {x : RawByte} {xs : List RawByte} (h : ordered (x :: xs)) : x.start ≤ x.stop ∧ ordered xs := by
  cases xs with
  | nil => exact ⟨h, trivial⟩
  | cons y ys =>
    obtain ⟨hx, -, hys⟩ := h
    exact ⟨hx, hys⟩

/-- In an ordered stream the interval of each byte is in order. -/
theorem start_le_stop_of_ordered {xs : List RawByte} (h : ordered xs) {x : RawByte} (hx : x ∈ xs) :
    x.start ≤ x.stop := by
  induction xs with
  | nil => cases hx
  | cons y ys ih =>
    obtain ⟨hy, hys⟩ := ordered_cons h
    obtain rfl | hx := List.mem_cons.1 hx
    · exact hy
    · exact ih hys hx

/-- In an ordered stream the first byte ends before any later one starts. -/
theorem stop_le_start_of_ordered_cons {x : RawByte} {xs : List RawByte} (h : ordered (x :: xs)) {y : RawByte}
    (hy : y ∈ xs) : x.stop ≤ y.start := by
  induction xs generalizing x with
  | nil => cases hy
  | cons z zs ih =>
    obtain ⟨-, hxz, hzs⟩ := h
    obtain rfl | hy := List.mem_cons.1 hy
    · exact hxz
    · calc x.stop ≤ z.start := hxz
        _ ≤ z.stop := (ordered_cons hzs).1
        _ ≤ y.start := ih hzs hy

/-- Settles O50: the triple's bounds are those of the first and the last byte of the cycle. -/
theorem orderedStreamGivesOrderedTriple : Obligations.OrderedStreamGivesOrderedTriple := by
  intro s h e f ds hs hb hh hn hf hord
  obtain ⟨t, -, -, hrun⟩ := oneCycleDecodesOneFrame s h e f ds hs hb hh hn
  rw [if_pos hf] at hrun
  have hmem : f ∈ ds ++ [e, f] := by simp
  exact ⟨t, _, _, _, hrun, (ordered_cons hord).1, rfl, stop_le_start_of_ordered_cons hord hmem, rfl,
    start_le_stop_of_ordered (ordered_cons hord).2 hmem⟩

end Sys2Proof.Machine
